-- ==== Sys2Proof/Word.lean ====
section
/-! DEFINITION. The word types of the block: 00_scope.md rule R13 (a value of N bits is an unsigned integer),
widths by rule R7 (`W_TS` = `W_CMP` = `W_DIST` = 16, `W_DUTY` = 8). -/

namespace Sys2Proof

/-- A 16-bit word: a host data word, a timestamp, a delta, a distance or a compare value. -/
abbrev Word := BitVec 16

/-- An 8-bit duty cycle, a percentage. -/
abbrev Duty := BitVec 8

/-- A word address of the host register port (20_memory.md rule R60). -/
abbrev Addr := BitVec 4

/-- A host transaction word, format H (30_encoding.md rule R90). -/
abbrev HostWord := BitVec 21

/-- An event word, format E (30_encoding.md rule R92). -/
abbrev EventWord := BitVec 18

end Sys2Proof
end

