-- ==== Sys2Proof/Syntax.lean ====
section
/-! DEFINITION. The names of the block (wheels, legs, actions, sources), its operations (`Instr`, one constructor per row
of spec/opcode_table.json), what can arrive at its ports (`Input`), and the names under which the decoder refuses. -/

namespace Sys2Proof

/-- A wheel, `L` or `R` (00_scope.md rule R18). -/
inductive Wheel where
  | left
  | right
deriving DecidableEq, Repr

/-- One of the two PWM channels of a wheel's H-bridge, `A` or `B` (rule R18). -/
inductive Leg where
  | a
  | b
deriving DecidableEq, Repr

/-- MotorStatus, also the motor actions (10_state.md rule R21). Three-valued, as rule R34 allows. -/
inductive MotorStatus where
  | fwd
  | rev
  | stop
deriving DecidableEq, Repr

/-- MouseStatus, also the mouse actions (10_state.md rule R22). Six-valued, as rule R34 allows. -/
inductive MouseStatus where
  | fwd
  | rev
  | stop
  | turnLeft
  | turnRight
  | turnAround
deriving DecidableEq, Repr

/-- An interrupt source (60_exceptions.md rule R232). -/
inductive Source where
  | capL
  | capR
  | tof
deriving DecidableEq, Repr

/-- The operations of the block, one per row of 30_encoding.md rule R97. -/
inductive Instr where
  /-- `RD addr` -/
  | rd (addr : Addr)
  /-- `WR 0x6, v` (`LDDIST v`) -/
  | lddist (v : Word)
  /-- `DRIVE L, FWD` -/
  | driveLFwd
  /-- `DRIVE L, REV` -/
  | driveLRev
  /-- `DRIVE L, STOP` -/
  | driveLStop
  /-- `DRIVE R, FWD` -/
  | driveRFwd
  /-- `DRIVE R, REV` -/
  | driveRRev
  /-- `DRIVE R, STOP` -/
  | driveRStop
  /-- `MOUSE FWD` -/
  | mouseFwd
  /-- `MOUSE REV` -/
  | mouseRev
  /-- `MOUSE STOP` -/
  | mouseStop
  /-- `MOUSE TL` -/
  | mouseTl
  /-- `MOUSE TR` -/
  | mouseTr
  /-- `MOUSE TA` -/
  | mouseTa
  /-- `EDGE.L ts` -/
  | edgeL (ts : Word)
  /-- `EDGE.R ts` -/
  | edgeR (ts : Word)
  /-- `TOF` -/
  | tof
  /-- `CAPSVC.L` -/
  | capsvcL
  /-- `CAPSVC.R` -/
  | capsvcR
  /-- `CTLSVC` -/
  | ctlsvc
  /-- `SETBIT v, i` on an `n`-bit value -/
  | setbit (n : Nat) (v : BitVec n) (i : Nat)
  /-- `CLRBIT v, i` on an `n`-bit value -/
  | clrbit (n : Nat) (v : BitVec n) (i : Nat)
deriving DecidableEq, Repr

/-- What can come next at the block (00_scope.md rule R10): a word on the host port, a word on the event input, or the
service unit's turn for one source (30_encoding.md rules R90, R92, R93). -/
inductive Input where
  | host (w : HostWord)
  | event (w : EventWord)
  | service (s : Source)
deriving DecidableEq, Repr

/-- Why the decoder refuses a word: the reserved encodings of 30_encoding.md rule R98, each under its own name. -/
inductive DecodeError where
  /-- (a) a command word with a bit of `data[15:8]` or bit 3 set -/
  | commandZeroBits (v : Word)
  /-- (a) a command word whose `op` is neither 0x1 nor 0x2 -/
  | commandOp (v : Word)
  /-- (b) `DRIVE` with action 3 -/
  | driveAction (v : Word)
  /-- (c) `MOUSE` with action 6 or 7 -/
  | mouseAction (v : Word)
  /-- (d) `WR` to an address other than 0x0 and 0x6 -/
  | notWritable (addr : Addr)
  /-- (e) `RD` of address 0x7, 0xE or 0xF -/
  | notReadable (addr : Addr)
  /-- (e) `RD` with `data` not 0 -/
  | readWithData (data : Word)
  /-- (f) an event word with `src` = 3 -/
  | eventSource
  /-- (f) an event word with `src` = 2 and `ts` not 0 -/
  | tofWithTimestamp (ts : Word)
deriving DecidableEq, Repr

end Sys2Proof
end

