-- ==== Sys2Proof/WellFormed.lean ====
section
/-! DEFINITION. Which operands an operation may have: a readable address (20_memory.md rule R61), a bit index below the
width (40_bitfield_utility.md rule R120). Every other operand is legal at every value its type holds. -/

namespace Sys2Proof

/-- The addresses a host may read: all but the reserved 0x7, 0xE and 0xF (rule R61). -/
def readableAddr (addr : Addr) : Bool :=
  addr != 0x7#4 && addr != 0xE#4 && addr != 0xF#4

/-- The operand check, as a test. -/
def Instr.wellFormed : Instr → Bool
  | .rd addr => readableAddr addr
  | .setbit n _ i => decide (i < n)
  | .clrbit n _ i => decide (i < n)
  | .lddist _ => true
  | .driveLFwd => true
  | .driveLRev => true
  | .driveLStop => true
  | .driveRFwd => true
  | .driveRRev => true
  | .driveRStop => true
  | .mouseFwd => true
  | .mouseRev => true
  | .mouseStop => true
  | .mouseTl => true
  | .mouseTr => true
  | .mouseTa => true
  | .edgeL _ => true
  | .edgeR _ => true
  | .tof => true
  | .capsvcL => true
  | .capsvcR => true
  | .ctlsvc => true

/-- An operation whose operands are legal. -/
abbrev Instr.WellFormed (i : Instr) : Prop := i.wellFormed = true

end Sys2Proof
end

