-- ==== Sys2Proof/Decode.lean ====
section
/-! DEFINITION. The encodings of 30_encoding.md: operand codes (R95), the decoder of the three formats that arrive at a
port (R90 to R93, R98, R99), the encoder (R97), the textual form (R100), and the host's numbering of table words. -/

namespace Sys2Proof

/-- The code of a wheel (rule R95). -/
def wheelCode : Wheel → BitVec 1
  | .left => 0
  | .right => 1

/-- The code of a leg (00_scope.md rule R14). -/
def legCode : Leg → BitVec 1
  | .a => 0
  | .b => 1

/-- The code of a motor status or action (rule R95). -/
def motorCode : MotorStatus → BitVec 2
  | .fwd => 0
  | .rev => 1
  | .stop => 2

/-- The code of a mouse status or action (rule R95). -/
def mouseCode : MouseStatus → BitVec 3
  | .fwd => 0
  | .rev => 1
  | .stop => 2
  | .turnLeft => 3
  | .turnRight => 4
  | .turnAround => 5

/-- The code of a source (rule R93). -/
def sourceCode : Source → BitVec 2
  | .capL => 0
  | .capR => 1
  | .tof => 2

/-- The operation that the wheel and the motor action of a `DRIVE` command name. -/
def driveInstr : Wheel → MotorStatus → Instr
  | .left, .fwd => .driveLFwd
  | .left, .rev => .driveLRev
  | .left, .stop => .driveLStop
  | .right, .fwd => .driveRFwd
  | .right, .rev => .driveRRev
  | .right, .stop => .driveRStop

/-- The operation that the action of a `MOUSE` command names. -/
def mouseInstr : MouseStatus → Instr
  | .fwd => .mouseFwd
  | .rev => .mouseRev
  | .stop => .mouseStop
  | .turnLeft => .mouseTl
  | .turnRight => .mouseTr
  | .turnAround => .mouseTa

/-- The event of an edge on a wheel's tachometer pin. -/
def edgeInstr : Wheel → Word → Instr
  | .left, ts => .edgeL ts
  | .right, ts => .edgeR ts

/-- The service step of a source (60_exceptions.md rule R232). -/
def serviceInstr : Source → Instr
  | .capL => .capsvcL
  | .capR => .capsvcR
  | .tof => .ctlsvc

/-- The wheel with a given code. -/
def wheelOfCode (c : BitVec 1) : Wheel :=
  if c = 0 then .left else .right

/-- The motor action with a given code; code 3 is reserved. -/
def motorOfCode (c : BitVec 2) : Option MotorStatus :=
  match c.toNat with
  | 0 => some .fwd
  | 1 => some .rev
  | 2 => some .stop
  | _ => none

/-- The mouse action with a given code; codes 6 and 7 are reserved. -/
def mouseOfCode (c : BitVec 3) : Option MouseStatus :=
  match c.toNat with
  | 0 => some .fwd
  | 1 => some .rev
  | 2 => some .stop
  | 3 => some .turnLeft
  | 4 => some .turnRight
  | 5 => some .turnAround
  | _ => none

/-- A command word, format C (rules R91, R98 and 45_host_register_access.md rule R215). -/
def decodeCommand (v : Word) : Except DecodeError Instr :=
  if v.extractLsb' 8 8 ≠ 0 ∨ v.extractLsb' 3 1 ≠ 0 then .error (.commandZeroBits v)
  else match (v.extractLsb' 4 4).toNat with
    | 1 =>
      match motorOfCode (v.extractLsb' 0 2) with
      | some a => .ok (driveInstr (wheelOfCode (v.extractLsb' 2 1)) a)
      | none => .error (.driveAction v)
    | 2 =>
      match mouseOfCode (v.extractLsb' 0 3) with
      | some m => .ok (mouseInstr m)
      | none => .error (.mouseAction v)
    | _ => .error (.commandOp v)

/-- A read of `addr` whose `data` field is `data`: the field must be 0 (rule R90) and the address readable (rule R98 (e)). -/
def decodeRead (addr : Addr) (data : Word) : Except DecodeError Instr :=
  if data ≠ 0 then .error (.readWithData data)
  else if readableAddr addr then .ok (.rd addr)
  else .error (.notReadable addr)

/-- A write of `data` to `addr`: the command register, the distance, or refused (rule R98 (d), rule R211). -/
def decodeWrite (addr : Addr) (data : Word) : Except DecodeError Instr :=
  match addr.toNat with
  | 0 => decodeCommand data
  | 6 => .ok (.lddist data)
  | _ => .error (.notWritable addr)

/-- A host transaction word, format H (rule R90). -/
def decodeHost (w : HostWord) : Except DecodeError Instr :=
  if w.extractLsb' 20 1 = 0 then decodeRead (w.extractLsb' 16 4) (w.extractLsb' 0 16)
  else decodeWrite (w.extractLsb' 16 4) (w.extractLsb' 0 16)

/-- An event word, format E (rule R92). -/
def decodeEvent (w : EventWord) : Except DecodeError Instr :=
  let ts := w.extractLsb' 0 16
  match (w.extractLsb' 16 2).toNat with
  | 0 => .ok (.edgeL ts)
  | 1 => .ok (.edgeR ts)
  | 2 => if ts = 0 then .ok .tof else .error (.tofWithTimestamp ts)
  | _ => .error .eventSource

/-- The decoder: the port a word arrives on tells its format (rule R99). -/
def decode : Input → Except DecodeError Instr
  | .host w => decodeHost w
  | .event w => decodeEvent w
  | .service s => .ok (serviceInstr s)

/-- A format H word from its fields (rule R90). -/
def hostWord (we : BitVec 1) (addr : Addr) (data : Word) : HostWord :=
  we ++ addr ++ data

/-- A format E word from its fields (rule R92). -/
def eventWord (src : BitVec 2) (ts : Word) : EventWord :=
  src ++ ts

/-- The command word of `DRIVE w, a` (rule R91). -/
def driveCommand (w : Wheel) (a : MotorStatus) : Word :=
  0#8 ++ 1#4 ++ 0#1 ++ wheelCode w ++ motorCode a

/-- The command word of `MOUSE m` (rule R91). -/
def mouseCommand (m : MouseStatus) : Word :=
  0#8 ++ 2#4 ++ 0#1 ++ mouseCode m

/-- The encoder, from the map of rule R97: the input that carries an operation. The pure functions of format P have no
bits and are issued by no one (rule R94). -/
def encode : Instr → Option Input
  | .rd addr => some (.host (hostWord 0 addr 0))
  | .lddist v => some (.host (hostWord 1 6 v))
  | .driveLFwd => some (.host (hostWord 1 0 (driveCommand .left .fwd)))
  | .driveLRev => some (.host (hostWord 1 0 (driveCommand .left .rev)))
  | .driveLStop => some (.host (hostWord 1 0 (driveCommand .left .stop)))
  | .driveRFwd => some (.host (hostWord 1 0 (driveCommand .right .fwd)))
  | .driveRRev => some (.host (hostWord 1 0 (driveCommand .right .rev)))
  | .driveRStop => some (.host (hostWord 1 0 (driveCommand .right .stop)))
  | .mouseFwd => some (.host (hostWord 1 0 (mouseCommand .fwd)))
  | .mouseRev => some (.host (hostWord 1 0 (mouseCommand .rev)))
  | .mouseStop => some (.host (hostWord 1 0 (mouseCommand .stop)))
  | .mouseTl => some (.host (hostWord 1 0 (mouseCommand .turnLeft)))
  | .mouseTr => some (.host (hostWord 1 0 (mouseCommand .turnRight)))
  | .mouseTa => some (.host (hostWord 1 0 (mouseCommand .turnAround)))
  | .edgeL ts => some (.event (eventWord 0 ts))
  | .edgeR ts => some (.event (eventWord 1 ts))
  | .tof => some (.event (eventWord 2 0))
  | .capsvcL => some (.service .capL)
  | .capsvcR => some (.service .capR)
  | .ctlsvc => some (.service .tof)
  | .setbit _ _ _ => none
  | .clrbit _ _ _ => none

/-- The input that a word numbered as spec/opcode_table.json numbers it stands for. Widths 21, 18 and 0 are the table's
own (formats H, E and S); a word given in whole bytes does not say on which port it arrives, and is read as an event
where it is a legal event word, else as a host transaction. DESIGN CHOICE, safe (notes/assumptions/8.md). -/
def inputOfTableWord (nbits w : Nat) : Option Input :=
  let event := if w < 2 ^ 18 then some (Input.event (BitVec.ofNat 18 w)) else none
  let host := if w < 2 ^ 21 then some (Input.host (BitVec.ofNat 21 w)) else none
  match nbits with
  | 0 =>
    match w with
    | 0 => some (.service .capL)
    | 1 => some (.service .capR)
    | 2 => some (.service .tof)
    | _ => none
  | 18 => event
  | 21 => host
  | _ =>
    match event with
    | none => host
    | some e =>
      match decode e with
      | .ok _ => some e
      | .error _ => host

/-- What the decoder reads from a table word; none where it refuses. -/
def decodeTableWord (nbits w : Nat) : Option Instr :=
  match inputOfTableWord nbits w with
  | none => none
  | some inp =>
    match decode inp with
    | .ok i => some i
    | .error _ => none

/-- The textual form of an operation (rule R100), numbers in decimal. DESIGN CHOICE, safe (notes/assumptions/12.md). -/
def render : Instr → String
  | .rd addr => "RD " ++ toString addr.toNat
  | .lddist v => "LDDIST " ++ toString v.toNat
  | .driveLFwd => "DRIVE L, FWD"
  | .driveLRev => "DRIVE L, REV"
  | .driveLStop => "DRIVE L, STOP"
  | .driveRFwd => "DRIVE R, FWD"
  | .driveRRev => "DRIVE R, REV"
  | .driveRStop => "DRIVE R, STOP"
  | .mouseFwd => "MOUSE FWD"
  | .mouseRev => "MOUSE REV"
  | .mouseStop => "MOUSE STOP"
  | .mouseTl => "MOUSE TL"
  | .mouseTr => "MOUSE TR"
  | .mouseTa => "MOUSE TA"
  | .edgeL ts => "EDGE.L " ++ toString ts.toNat
  | .edgeR ts => "EDGE.R " ++ toString ts.toNat
  | .tof => "TOF"
  | .capsvcL => "CAPSVC.L"
  | .capsvcR => "CAPSVC.R"
  | .ctlsvc => "CTLSVC"
  | .setbit _ v i => "SETBIT " ++ toString v.toNat ++ ", " ++ toString i
  | .clrbit _ v i => "CLRBIT " ++ toString v.toNat ++ ", " ++ toString i

end Sys2Proof
end

