-- ==== Sys2Proof/Config.lean ====
section
/-! DEFINITION. The parameters of 00_scope.md rule R7, the legality constraint of rule R8, and the model's free values:
what the spec leaves OPEN is an opaque constant here, with no body, so no proof can rest on a number. -/

namespace Sys2Proof

/-- The parameters of rule R7, as plain numbers, legal or not, each with the value or the default that rules R6 and R7 and
the table OPEN parameters of 92_eei_decisions.md give it; the four without one are OPEN there. `STEP` = 2 is hard-coded and
no parameter. -/
structure RawConfig where
  /-- `PWM_PERIOD_TICKS`, the PWM counter modulus. OPEN. -/
  pwmPeriodTicks : Nat
  /-- `OFF_VALUE`, the fully-off compare value: `PWM_PERIOD_TICKS` unless another maximum is taken. -/
  offValue : Nat := pwmPeriodTicks
  /-- `PW_MIN`, percent. -/
  pwMin : Nat := 10
  /-- `PW_MAX`, percent. -/
  pwMax : Nat := 90
  /-- `DEFAULT_SPEED`, percent. OPEN. -/
  defaultSpeed : Nat
  /-- `CONTROL_PERIOD_MS`, informational: no rule reads it. -/
  controlPeriodMs : Nat := 50
  /-- `BUS_CLOCK_MHZ`, informational: no rule reads it. OPEN. -/
  busClockMHz : Nat
  /-- `PWM_PERIOD_MS`, informational: no rule reads it. OPEN. -/
  pwmPeriodMs : Nat
deriving DecidableEq, Repr

/-- Rule R8: what makes a configuration legal. -/
abbrev RawConfig.Legal (r : RawConfig) : Prop :=
  r.pwMin ≤ r.defaultSpeed ∧ r.defaultSpeed ≤ r.pwMax ∧ r.pwMax ≤ 100 ∧
    1 ≤ r.pwmPeriodTicks ∧ r.pwmPeriodTicks ≤ r.offValue ∧ r.offValue < 2 ^ 16

/-- A legal configuration. An illegal one cannot be built: the model gives it no meaning (rule R8).
DESIGN CHOICE, safe (notes/assumptions/2.md). -/
structure Config where
  raw : RawConfig
  legal : raw.Legal
deriving DecidableEq, Repr

/-- The free numbers behind the parameters the spec leaves OPEN (92_eei_decisions.md, OPEN parameters). -/
opaque Config.openParameter : Nat → Nat

/-- A configuration made from free numbers: the parameters with a value or a default have it, and the OPEN ones can be any
that rule R8 allows. DESIGN CHOICE (notes/assumptions/1.md). -/
def RawConfig.ofFree (f : Nat → Nat) : RawConfig :=
  { pwmPeriodTicks := 1 + f 0 % (2 ^ 16 - 1)
    defaultSpeed := 10 + f 1 % (90 - 10 + 1)
    busClockMHz := f 2
    pwmPeriodMs := f 3 }

theorem RawConfig.legal_ofFree (f : Nat → Nat) : (RawConfig.ofFree f).Legal := by
  simp only [RawConfig.Legal, RawConfig.ofFree]
  omega

/-- The configuration of the machine that `State.reset` starts: the defaults, the OPEN parameters not known
(notes/assumptions/1.md). -/
def Config.params : Config :=
  ⟨RawConfig.ofFree Config.openParameter, RawConfig.legal_ofFree _⟩

/-- Which of several pending service steps the service unit takes when nothing stands on the agenda: the spec fixes no
priority (60_exceptions.md rule R236). A free value, applied to a counter of draws (notes/assumptions/4.md). -/
opaque Config.schedule : Nat → Nat

end Sys2Proof
end

