-- ==== Sys2Proof/Machine/State.lean ====
section
/-! DEFINITION. The state of the block (10_state.md rule R20), the trace `OUT` (00_scope.md rule R12), the model's own
fields, why a step can stop, and the state after reset (10_state.md rule R33). -/

namespace Sys2Proof.Machine

/-- A record of the output trace `OUT` (00_scope.md rule R12). -/
inductive OutRecord where
  | cmpWrite (w : Wheel) (leg : Leg) (v : Word)
  | capRead (w : Wheel)
  | flagRead (s : Source)
  | flagWrite0 (s : Source)
deriving DecidableEq, Repr

/-- What an operation gives its caller: the word of a `RD`, or the value of a pure function. -/
inductive Reply where
  | word (v : Word)
  | bits (n : Nat) (v : BitVec n)
deriving DecidableEq, Repr

/-- The registers that exist once per wheel (10_state.md rules R21, R23 to R26, R28, R29). -/
structure WheelUnit where
  /-- `MSTAT[w]` -/
  mstat : MotorStatus
  /-- `DUTY[w]` -/
  duty : Duty
  /-- `DELTA[w]` -/
  delta : Word
  /-- `PREV[w]` -/
  prev : Word
  /-- `CAP[w]` -/
  cap : Word
  /-- `CMP[w][A]` -/
  cmpA : Word
  /-- `CMP[w][B]` -/
  cmpB : Word
  /-- `F[CAP_w]` -/
  capFlag : BitVec 1
deriving DecidableEq, Repr

/-- The whole state. The first five fields are the spec's (rule R20); `out` is the spec's trace, a history no step reads;
`cfg` is the configuration of the run, which no step writes; the last three are the model's own. -/
structure State where
  /-- the left wheel's registers -/
  left : WheelUnit
  /-- the right wheel's registers -/
  right : WheelUnit
  /-- `MOUSESTAT` (rule R22) -/
  mouseStat : MouseStatus
  /-- `DIST` (rule R27) -/
  dist : Word
  /-- `F[TOF]` (rule R29) -/
  tofFlag : BitVec 1
  /-- `OUT`, oldest record first. DESIGN CHOICE, safe (notes/assumptions/5.md). -/
  out : List OutRecord
  /-- the parameters of the run. DESIGN CHOICE, safe (notes/assumptions/1.md). -/
  cfg : Config
  /-- what the latest `RD`, `SETBIT` or `CLRBIT` gave back. DESIGN CHOICE, safe (notes/assumptions/6.md). -/
  reply : Option Reply
  /-- the steps that come next, first one first. DESIGN CHOICE, unsafe (notes/assumptions/3.md). -/
  agenda : List Input
  /-- how many free scheduling choices have been drawn. DESIGN CHOICE, safe (notes/assumptions/4.md). -/
  draws : Nat
deriving DecidableEq, Repr

/-- Why the machine stops with a fault: never. The block raises no exception of any kind (60_exceptions.md rule R230) and
"no `fault` outcome exists in the block" (93_implementation_defined.md U6), so there is no constructor. -/
inductive Fault
deriving DecidableEq, Repr

/-- Why a step has no meaning. -/
inductive Refusal where
  /-- An instruction the model gives no meaning yet; raised only by an arm of `exec` that says so. Safe. -/
  | notModelled (mnemonic : String)
  /-- The word is a reserved encoding (30_encoding.md rule R98); raised by `step`. Safe. -/
  | undecodable (e : DecodeError)
  /-- A read of a reserved address (45_host_register_access.md rule R216); raised by `execRd` for an ill-formed
  operation, which the decoder never yields. Safe. -/
  | notReadable (addr : Addr)
  /-- A service step whose pending flag is 0: "not enabled: no such step" (42_tach_capture.md rule R152,
  43_speed_balance.md rule R172); raised by `serve`. Safe. -/
  | serviceNotEnabled (s : Source)
  /-- A bit index not below the width (40_bitfield_utility.md rules R120, R121); raised by `execSetbit` and
  `execClrbit`. Safe. -/
  | bitIndexOutOfRange (n i : Nat)
  /-- An illegal configuration (00_scope.md rule R8); raised by `configure`. Safe. -/
  | illegalConfiguration
deriving DecidableEq, Repr

/-- A wheel's registers after reset (rule R33). -/
def WheelUnit.resetOf (c : Config) : WheelUnit :=
  { mstat := .stop
    duty := BitVec.ofNat 8 c.raw.defaultSpeed
    delta := 0
    prev := 0
    cap := 0
    cmpA := BitVec.ofNat 16 c.raw.offValue
    cmpB := BitVec.ofNat 16 c.raw.offValue
    capFlag := 0 }

/-- The state after reset of a block built with the configuration `c` (rule R33). -/
def State.resetOf (c : Config) : State :=
  { left := WheelUnit.resetOf c
    right := WheelUnit.resetOf c
    mouseStat := .stop
    dist := 0
    tofFlag := 0
    out := []
    cfg := c
    reply := none
    agenda := []
    draws := 0 }

/-- The state after reset: rule R33 under the default configuration of rule R7, whose OPEN parameters are
not known. `State.resetOf` gives it for every other legal configuration. -/
def State.reset : State := State.resetOf Config.params

end Sys2Proof.Machine
end

