-- ==== Sys2Proof/Machine/Ops.lean ====
section
/-! DEFINITION. Named operations over the registers: access by wheel, one write operation per register (each with the
trace record the spec attaches to it), the numeric functions `clamp` and `dutyval`, and the choice of what comes next. -/

namespace Sys2Proof.Machine

/-- The registers of wheel `w`. -/
def State.wheel (s : State) : Wheel → WheelUnit
  | .left => s.left
  | .right => s.right

/-- The state with the registers of wheel `w` replaced. -/
def State.setWheel (s : State) (w : Wheel) (u : WheelUnit) : State :=
  match w with
  | .left => { s with left := u }
  | .right => { s with right := u }

/-- `CMP[w][leg]`. -/
def WheelUnit.cmp (u : WheelUnit) : Leg → Word
  | .a => u.cmpA
  | .b => u.cmpB

/-- `emit r` (00_scope.md rule R14). -/
def State.emit (s : State) (r : OutRecord) : State :=
  { s with out := s.out ++ [r] }

/-- `CMP[w][leg] <- v ; emit CmpWrite(w, leg, v)` (41_pwm_motor_driver.md rule R131). -/
def State.writeCmp (s : State) (w : Wheel) (leg : Leg) (v : Word) : State :=
  let t :=
    match leg with
    | .a => s.setWheel w { s.wheel w with cmpA := v }
    | .b => s.setWheel w { s.wheel w with cmpB := v }
  t.emit (.cmpWrite w leg v)

/-- `MSTAT[w] <- a`. -/
def State.writeMstat (s : State) (w : Wheel) (a : MotorStatus) : State :=
  s.setWheel w { s.wheel w with mstat := a }

/-- `DUTY[w] <- d`. -/
def State.writeDuty (s : State) (w : Wheel) (d : Duty) : State :=
  s.setWheel w { s.wheel w with duty := d }

/-- `DELTA[w] <- d`. -/
def State.writeDelta (s : State) (w : Wheel) (d : Word) : State :=
  s.setWheel w { s.wheel w with delta := d }

/-- `PREV[w] <- t`. -/
def State.writePrev (s : State) (w : Wheel) (t : Word) : State :=
  s.setWheel w { s.wheel w with prev := t }

/-- `CAP[w] <- ts`. -/
def State.writeCap (s : State) (w : Wheel) (ts : Word) : State :=
  s.setWheel w { s.wheel w with cap := ts }

/-- `DIST <- v`. -/
def State.writeDist (s : State) (v : Word) : State :=
  { s with dist := v }

/-- `MOUSESTAT <- m`. -/
def State.writeMouse (s : State) (m : MouseStatus) : State :=
  { s with mouseStat := m }

/-- The value an operation gives its caller. -/
def State.giveReply (s : State) (r : Reply) : State :=
  { s with reply := some r }

/-- `STEP`, hard-coded (00_scope.md rule R7). -/
def correctionStep : Int := 2

/-- `clamp(x)` over the integers (00_scope.md rule R15). -/
def clampInt (c : Config) (x : Int) : Int :=
  if x ≥ c.raw.pwMax then c.raw.pwMax
  else if x ≤ c.raw.pwMin then c.raw.pwMin
  else x

/-- `clamp(x)` as a duty-cycle register value: the result lies in 0 .. 100, so nothing is lost. -/
def clamp (c : Config) (x : Int) : Duty :=
  BitVec.ofNat 8 (clampInt c x).toNat

/-- `OFF_VALUE` as a compare value; it is below 2^16 (00_scope.md rule R8). -/
def offCompare (c : Config) : Word :=
  BitVec.ofNat 16 c.raw.offValue

/-- `dutyval(d)` (00_scope.md rule R16): exact product, quotient rounded down, a percentage above 100 taken as 100. The
result is at most `PWM_PERIOD_TICKS`, so it fits 16 bits. -/
def dutyval (c : Config) (d : Duty) : Word :=
  BitVec.ofNat 16 (min d.toNat 100 * c.raw.pwmPeriodTicks / 100)

/-- Starting a block with a configuration: the reset state if it is legal, refused if not (00_scope.md rule R8).
DESIGN CHOICE, safe (notes/assumptions/2.md). -/
def configure (r : RawConfig) : Host.Outcome State Fault Refusal :=
  if h : r.Legal then .next (State.resetOf ⟨r, h⟩) else .refused .illegalConfiguration

end Sys2Proof.Machine
end

