-- ==== Sys2Proof/Machine/Bitfield.lean ====
section
/-! DEFINITION. The bit-field utility (40_bitfield_utility.md): `SETBIT` and `CLRBIT` on a value of any width. As
operations of their own they read and write no register; their value goes to the caller (notes/assumptions/11.md). -/

namespace Sys2Proof.Machine

/-- `SETBIT(v, i) = v | (1 << i)` (rule R120). -/
def setBit {n : Nat} (v : BitVec n) (i : Nat) : BitVec n :=
  v ||| (1#n <<< i)

/-- `CLRBIT(v, i) = v & ~(1 << i)` (rule R121). -/
def clrBit {n : Nat} (v : BitVec n) (i : Nat) : BitVec n :=
  v &&& ~~~(1#n <<< i)

/-- `SETBIT v, i` (rule R120): an index not below the width is refused. -/
def execSetbit (n : Nat) (v : BitVec n) (i : Nat) (s : State) : Host.Outcome State Fault Refusal :=
  if i < n then .next (s.giveReply (.bits n (setBit v i))) else .refused (.bitIndexOutOfRange n i)

/-- `CLRBIT v, i` (rule R121): an index not below the width is refused. -/
def execClrbit (n : Nat) (v : BitVec n) (i : Nat) (s : State) : Host.Outcome State Fault Refusal :=
  if i < n then .next (s.giveReply (.bits n (clrBit v i))) else .refused (.bitIndexOutOfRange n i)

end Sys2Proof.Machine
end

