-- ==== Sys2Proof/Machine/Flags.lean ====
section
/-! DEFINITION. The three pending flags (10_state.md rule R29): raising, the read-then-write-zero clear, the enabling of a
service step (60_exceptions.md rules R232 to R239), the choice of the next step, and the `STATUS` view (rule R31). -/

namespace Sys2Proof.Machine

/-- The capture source of a wheel. -/
def capSource : Wheel → Source
  | .left => .capL
  | .right => .capR

/-- `F[src]`. -/
def State.flag (s : State) : Source → BitVec 1
  | .capL => s.left.capFlag
  | .capR => s.right.capFlag
  | .tof => s.tofFlag

/-- `F[src] <- v`. -/
def State.writeFlag (s : State) (src : Source) (v : BitVec 1) : State :=
  match src with
  | .capL => s.setWheel .left { s.left with capFlag := v }
  | .capR => s.setWheel .right { s.right with capFlag := v }
  | .tof => { s with tofFlag := v }

/-- An event raises its source's flag; a flag already 1 stays 1 (60_exceptions.md rule R235). -/
def State.raiseFlag (s : State) (src : Source) : State :=
  s.writeFlag src 1

/-- The flag clear: one read, then one write of the value read with the flag's bit cleared (42_tach_capture.md rule R155,
40_bitfield_utility.md rule R122). The flag stands at bit 0 of a one-bit register: the spec gives no layout and only the
effect counts. DESIGN CHOICE, safe (notes/assumptions/7.md). -/
def State.clearFlag (s : State) (src : Source) : State :=
  let x := s.flag src
  ((s.emit (.flagRead src)).emit (.flagWrite0 src)).writeFlag src (clrBit x 0)

/-- A service step is enabled exactly when its flag is 1 (60_exceptions.md rule R233). -/
def State.enabled (s : State) (src : Source) : Bool :=
  s.flag src == 1

/-- The shared form of a service step: it needs its flag, runs its body, and clears the flag last
(42_tach_capture.md rule R152, 43_speed_balance.md rule R177). -/
def serve (src : Source) (body : State → State) (s : State) : Host.Outcome State Fault Refusal :=
  if s.enabled src then .next ((body s).clearFlag src) else .refused (.serviceNotEnabled src)

/-- The sources whose service step is enabled. -/
def State.pendingSources (s : State) : List Source :=
  [Source.capL, Source.capR, Source.tof].filter s.enabled

/-- What comes next (60_exceptions.md rule R236), and the state in which it is taken. First what stands on the agenda;
with an empty agenda one of the enabled service steps, which one being a free value where there are several; with nothing
enabled, nothing: the block is idle (rule R246). DESIGN CHOICE (notes/assumptions/3.md, unsafe, and 4.md, safe). -/
def State.nextInput (s : State) : Option (Input × State) :=
  match s.agenda with
  | inp :: rest => some (inp, { s with agenda := rest })
  | [] =>
    match s.pendingSources with
    | [] => none
    | [src] => some (.service src, s)
    | src :: others =>
      let pick := Config.schedule s.draws % (others.length + 1)
      some (.service ((src :: others).getD pick src), { s with draws := s.draws + 1 })

/-- Puts an input where the next step takes it from. A service turn needs its pending flag, so that is raised too
(notes/assumptions/8.md). -/
def State.place (s : State) (inp : Input) : State :=
  let t := { s with agenda := inp :: s.agenda }
  match inp with
  | .host _ => t
  | .event _ => t
  | .service src => t.raiseFlag src

/-- The `STATUS` view (10_state.md rule R31, 45_host_register_access.md rule R210). -/
def State.statusWord (s : State) : Word :=
  0#5 ++ s.flag .tof ++ s.flag .capR ++ s.flag .capL ++ 0#1 ++ mouseCode s.mouseStat
    ++ motorCode s.right.mstat ++ motorCode s.left.mstat

end Sys2Proof.Machine
end

