-- ==== Sys2Proof/Machine/Operands.lean ====
section
/-! DEFINITION. The operand forms: the host's register map as a read function (20_memory.md rule R61,
45_host_register_access.md rule R210) and the dispatcher's target table (44_mouse_dispatch.md rule R192). -/

namespace Sys2Proof.Machine

/-- `RegRead(addr)`; none for the reserved addresses 0x7, 0xE and 0xF (rule R210). -/
def regRead (addr : Addr) (s : State) : Option Word :=
  match addr.toNat with
  | 0x0 => some 0
  | 0x1 => some s.statusWord
  | 0x2 => some (s.left.duty.setWidth 16)
  | 0x3 => some (s.right.duty.setWidth 16)
  | 0x4 => some s.left.delta
  | 0x5 => some s.right.delta
  | 0x6 => some s.dist
  | 0x8 => some s.left.cmpA
  | 0x9 => some s.left.cmpB
  | 0xA => some s.right.cmpA
  | 0xB => some s.right.cmpB
  | 0xC => some s.left.cap
  | 0xD => some s.right.cap
  | _ => none

/-- `target(m)`: the left and the right wheel's target status (rule R192). -/
def target : MouseStatus → MotorStatus × MotorStatus
  | .fwd => (.fwd, .fwd)
  | .rev => (.rev, .rev)
  | .stop => (.stop, .stop)
  | .turnLeft => (.stop, .fwd)
  | .turnRight => (.fwd, .stop)
  | .turnAround => (.fwd, .rev)

end Sys2Proof.Machine
end

