-- ==== Sys2Proof/Machine/Driver.lean ====
section
/-! DEFINITION. The PWM motor driver (41_pwm_motor_driver.md): the procedure `drive(w, a)` and the six `DRIVE` commands. -/

namespace Sys2Proof.Machine

/-- The values for leg A and leg B (rule R133): Forward puts the duty-cycle value on leg A, Reverse on leg B, Stop on
neither. -/
def legValues (on off : Word) : MotorStatus → Word × Word
  | .fwd => (on, off)
  | .rev => (off, on)
  | .stop => (off, off)

/-- `drive(w, a)` (rule R131): leg A, leg B, then the status. -/
def drive (w : Wheel) (a : MotorStatus) (s : State) : State :=
  let v := legValues (dutyval s.cfg (s.wheel w).duty) (offCompare s.cfg) a
  ((s.writeCmp w .a v.1).writeCmp w .b v.2).writeMstat w a

/-- `DRIVE L, FWD` (rule R130). -/
def execDriveLFwd (s : State) : Host.Outcome State Fault Refusal :=
  .next (drive .left .fwd s)

/-- `DRIVE L, REV` (rule R130). -/
def execDriveLRev (s : State) : Host.Outcome State Fault Refusal :=
  .next (drive .left .rev s)

/-- `DRIVE L, STOP` (rule R130). -/
def execDriveLStop (s : State) : Host.Outcome State Fault Refusal :=
  .next (drive .left .stop s)

/-- `DRIVE R, FWD` (rule R130). -/
def execDriveRFwd (s : State) : Host.Outcome State Fault Refusal :=
  .next (drive .right .fwd s)

/-- `DRIVE R, REV` (rule R130). -/
def execDriveRRev (s : State) : Host.Outcome State Fault Refusal :=
  .next (drive .right .rev s)

/-- `DRIVE R, STOP` (rule R130). -/
def execDriveRStop (s : State) : Host.Outcome State Fault Refusal :=
  .next (drive .right .stop s)

end Sys2Proof.Machine
end

