-- ==== Sys2Proof/Machine/Balance.lean ====
section
/-! DEFINITION. The speed-balancing controller (43_speed_balance.md): the event `TOF` and the service step `CTLSVC`. -/

namespace Sys2Proof.Machine

/-- The gate: neither wheel's status is `STOP` (rule R173). -/
def gateOpen (s : State) : Bool :=
  s.left.mstat != .stop && s.right.mstat != .stop

/-- The two duty cycles before the clamp, over the integers; the deltas are compared unsigned (rules R172, R174). -/
def corrected (s : State) : Int × Int :=
  let l : Int := s.left.duty.toNat
  let r : Int := s.right.duty.toNat
  if s.left.delta.toNat > s.right.delta.toNat then (l - correctionStep, r + correctionStep)
  else if s.left.delta.toNat < s.right.delta.toNat then (l + correctionStep, r - correctionStep)
  else (l, r)

/-- `drive(w, MSTAT[w])`: the re-apply of rule R176. -/
def reapply (w : Wheel) (s : State) : State :=
  drive w (s.wheel w).mstat s

/-- The body of `CTLSVC` up to the flag clear (rule R172). -/
def balanceBody (s : State) : State :=
  if gateOpen s then
    let n := corrected s
    reapply .right (reapply .left ((s.writeDuty .left (clamp s.cfg n.1)).writeDuty .right (clamp s.cfg n.2)))
  else s

/-- `TOF` (rule R170). -/
def execTof (s : State) : Host.Outcome State Fault Refusal :=
  .next (s.raiseFlag .tof)

/-- `CTLSVC` (rule R172). -/
def execCtlsvc (s : State) : Host.Outcome State Fault Refusal :=
  serve .tof balanceBody s

end Sys2Proof.Machine
end

