-- ==== Sys2Proof/Machine/Capture.lean ====
section
/-! DEFINITION. Tachometer capture (42_tach_capture.md): the events `EDGE.w ts` and the service steps `CAPSVC.w`. -/

namespace Sys2Proof.Machine

/-- `EDGE.w ts` (rule R150): the latch and the flag; nothing on the trace. -/
def edge (w : Wheel) (ts : Word) (s : State) : State :=
  (s.writeCap w ts).raiseFlag (capSource w)

/-- `if DIST > 0 then DIST <- DIST - 1` (rule R154). -/
def countDown (s : State) : State :=
  if s.dist.toNat > 0 then s.writeDist (s.dist - 1) else s

/-- The body of `CAPSVC.w` up to the flag clear (rule R152); the subtraction is modulo 2^16 (rule R153). -/
def captureBody (w : Wheel) (s : State) : State :=
  let s := s.emit (.capRead w)
  let t := (s.wheel w).cap
  countDown ((s.writeDelta w (t - (s.wheel w).prev)).writePrev w t)

/-- `EDGE.L ts` (rule R150). -/
def execEdgeL (ts : Word) (s : State) : Host.Outcome State Fault Refusal :=
  .next (edge .left ts s)

/-- `EDGE.R ts` (rule R150). -/
def execEdgeR (ts : Word) (s : State) : Host.Outcome State Fault Refusal :=
  .next (edge .right ts s)

/-- `CAPSVC.L` (rule R152). -/
def execCapsvcL (s : State) : Host.Outcome State Fault Refusal :=
  serve .capL (captureBody .left) s

/-- `CAPSVC.R` (rule R152). -/
def execCapsvcR (s : State) : Host.Outcome State Fault Refusal :=
  serve .capR (captureBody .right) s

end Sys2Proof.Machine
end

