-- ==== Sys2Proof/Machine/HostPort.lean ====
section
/-! DEFINITION. Host register access (45_host_register_access.md): `RD addr` and `WR 0x6, v` (`LDDIST v`). -/

namespace Sys2Proof.Machine

/-- `RD addr` (rule R212): the word goes to the host, the block's state is unchanged. A reserved address is refused. -/
def execRd (addr : Addr) (s : State) : Host.Outcome State Fault Refusal :=
  match regRead addr s with
  | some v => .next (s.giveReply (.word v))
  | none => .refused (.notReadable addr)

/-- `WR 0x6, v`, that is `LDDIST v` (rule R214). -/
def execLddist (v : Word) (s : State) : Host.Outcome State Fault Refusal :=
  .next (s.writeDist v)

end Sys2Proof.Machine
end

