-- ==== Sys2Proof/Machine/Mouse.lean ====
section
/-! DEFINITION. The mouse-action dispatcher (44_mouse_dispatch.md): one directive, at most two driver calls. -/

namespace Sys2Proof.Machine

/-- `if MSTAT[w] != a then drive(w, a)` (rule R191). -/
def driveIfChanged (w : Wheel) (a : MotorStatus) (s : State) : State :=
  if (s.wheel w).mstat ≠ a then drive w a s else s

/-- `if MOUSESTAT != m then MOUSESTAT <- m` (rule R191). -/
def noteMouse (m : MouseStatus) (s : State) : State :=
  if s.mouseStat ≠ m then s.writeMouse m else s

/-- `MOUSE m` (rule R191): the left wheel, the right wheel, then `MOUSESTAT`. -/
def dispatch (m : MouseStatus) (s : State) : State :=
  noteMouse m (driveIfChanged .right (target m).2 (driveIfChanged .left (target m).1 s))

/-- `MOUSE FWD` (rule R190). -/
def execMouseFwd (s : State) : Host.Outcome State Fault Refusal :=
  .next (dispatch .fwd s)

/-- `MOUSE REV` (rule R190). -/
def execMouseRev (s : State) : Host.Outcome State Fault Refusal :=
  .next (dispatch .rev s)

/-- `MOUSE STOP` (rule R190). -/
def execMouseStop (s : State) : Host.Outcome State Fault Refusal :=
  .next (dispatch .stop s)

/-- `MOUSE TL` (rule R190). -/
def execMouseTl (s : State) : Host.Outcome State Fault Refusal :=
  .next (dispatch .turnLeft s)

/-- `MOUSE TR` (rule R190). -/
def execMouseTr (s : State) : Host.Outcome State Fault Refusal :=
  .next (dispatch .turnRight s)

/-- `MOUSE TA` (rule R190). -/
def execMouseTa (s : State) : Host.Outcome State Fault Refusal :=
  .next (dispatch .turnAround s)

end Sys2Proof.Machine
end

