-- ==== Sys2Proof/Machine/Dispatch.lean ====
section
/-! DEFINITION. One arm per operation of 30_encoding.md rule R97. -/

namespace Sys2Proof.Machine

def exec (i : Instr) (s : State) : Host.Outcome State Fault Refusal :=
  match i with
  | .rd addr => Sys2Proof.Machine.execRd addr s
  | .lddist v => Sys2Proof.Machine.execLddist v s
  | .driveLFwd => Sys2Proof.Machine.execDriveLFwd s
  | .driveLRev => Sys2Proof.Machine.execDriveLRev s
  | .driveLStop => Sys2Proof.Machine.execDriveLStop s
  | .driveRFwd => Sys2Proof.Machine.execDriveRFwd s
  | .driveRRev => Sys2Proof.Machine.execDriveRRev s
  | .driveRStop => Sys2Proof.Machine.execDriveRStop s
  | .mouseFwd => Sys2Proof.Machine.execMouseFwd s
  | .mouseRev => Sys2Proof.Machine.execMouseRev s
  | .mouseStop => Sys2Proof.Machine.execMouseStop s
  | .mouseTl => Sys2Proof.Machine.execMouseTl s
  | .mouseTr => Sys2Proof.Machine.execMouseTr s
  | .mouseTa => Sys2Proof.Machine.execMouseTa s
  | .edgeL ts => Sys2Proof.Machine.execEdgeL ts s
  | .edgeR ts => Sys2Proof.Machine.execEdgeR ts s
  | .tof => Sys2Proof.Machine.execTof s
  | .capsvcL => Sys2Proof.Machine.execCapsvcL s
  | .capsvcR => Sys2Proof.Machine.execCapsvcR s
  | .ctlsvc => Sys2Proof.Machine.execCtlsvc s
  | .setbit n v k => Sys2Proof.Machine.execSetbit n v k s
  | .clrbit n v k => Sys2Proof.Machine.execClrbit n v k s

end Sys2Proof.Machine
end

