-- ==== Sys2Proof/Machine/Step.lean ====
section
/-! DEFINITION. One step of the block: what comes next (60_exceptions.md rule R236), decoded and executed. -/

namespace Sys2Proof.Machine

/-- One atomic step (00_scope.md rule R10). With nothing to do the block is idle and all state survives
(60_exceptions.md rule R246). -/
def step (s : State) : Host.Outcome State Fault Refusal :=
  match s.nextInput with
  | none => .next s
  | some (inp, t) =>
    match decode inp with
    | .ok i => exec i t
    | .error e => .refused (.undecodable e)

/-- The state in which the next step takes the given table word. -/
def State.withFetchWord (s : State) (nbits w : Nat) : State :=
  match inputOfTableWord nbits w with
  | some inp => s.place inp
  | none => s

end Sys2Proof.Machine
end

