-- ==== Sys2Proof/Safety.lean ====
section
/-! DEFINITION. The terms that claims use: the invariant of 10_state.md rule R32, quiescence (60_exceptions.md rule R247),
runs of operations, and the block's effects written over plain numbers and record updates, apart from the model's own
operations. -/

namespace Sys2Proof.Machine

/-- Rule R32 for one wheel: (I-a) the duty cycle is in range, (I-c) the compare registers follow status and duty cycle.
(I-b) and (I-d) hold by the types of `MSTAT`, `MOUSESTAT` and `DIST`. -/
abbrev WheelUnit.Tracks (c : Config) (u : WheelUnit) : Prop :=
  (c.raw.pwMin ≤ u.duty.toNat ∧ u.duty.toNat ≤ c.raw.pwMax) ∧
    (u.mstat = .stop → u.cmpA.toNat = c.raw.offValue ∧ u.cmpB.toNat = c.raw.offValue) ∧
    (u.mstat = .fwd →
      u.cmpA.toNat = u.duty.toNat * c.raw.pwmPeriodTicks / 100 ∧ u.cmpB.toNat = c.raw.offValue) ∧
    (u.mstat = .rev →
      u.cmpA.toNat = c.raw.offValue ∧ u.cmpB.toNat = u.duty.toNat * c.raw.pwmPeriodTicks / 100)

/-- The invariant of rule R32. -/
abbrev State.Inv (s : State) : Prop :=
  s.left.Tracks s.cfg ∧ s.right.Tracks s.cfg

/-- No flag is pending (rule R247). -/
abbrev State.Quiescent (s : State) : Prop :=
  s.left.capFlag = 0 ∧ s.right.capFlag = 0 ∧ s.tofFlag = 0

/-- The operations of a list, one after the other, up to the first that does not answer a next state. -/
def execAll : List Instr → State → Host.Outcome State Fault Refusal
  | [], s => .next s
  | i :: rest, s =>
    match exec i s with
    | .next t => execAll rest t
    | .fault r => .fault r
    | .refused r => .refused r

/-- `on` is the "on" value of a duty cycle (41_pwm_motor_driver.md rule R132, with the saturation of rule R135). -/
abbrev IsOn (c : Config) (d : Duty) (on : Word) : Prop :=
  on.toNat = min d.toNat 100 * c.raw.pwmPeriodTicks / 100

/-- `off` is the "off" value (rule R134). -/
abbrev IsOff (c : Config) (off : Word) : Prop :=
  off.toNat = c.raw.offValue

/-- The value of leg A (rule R133): the duty-cycle value for Forward, else off. -/
def onLegA (a : MotorStatus) (on off : Word) : Word :=
  if a = .fwd then on else off

/-- The value of leg B (rule R133): the duty-cycle value for Reverse, else off. -/
def onLegB (a : MotorStatus) (on off : Word) : Word :=
  if a = .rev then on else off

/-- A wheel's registers after the driver has applied action `a`; all others stay. -/
def WheelUnit.driven (u : WheelUnit) (a : MotorStatus) (on off : Word) : WheelUnit :=
  { u with mstat := a, cmpA := onLegA a on off, cmpB := onLegB a on off }

/-- The two records a driver call appends (rule R131). -/
def driveRecords (w : Wheel) (a : MotorStatus) (on off : Word) : List OutRecord :=
  [.cmpWrite w .a (onLegA a on off), .cmpWrite w .b (onLegB a on off)]

/-- What the controller asks of the two duty cycles before the clamp (43_speed_balance.md rule R172), over the integers. -/
def wanted (dl dr l r : Nat) : Int × Int :=
  if dl > dr then ((l : Int) - 2, (r : Int) + 2)
  else if dl < dr then ((l : Int) + 2, (r : Int) - 2)
  else ((l : Int), (r : Int))

/-- The clamp of rule R175, as the nearest value in the range. -/
def nearest (c : Config) (x : Int) : Int :=
  max (c.raw.pwMin : Int) (min (c.raw.pwMax : Int) x)

end Sys2Proof.Machine
end

