-- ==== Sys2Proof/Certificates/Slice0/Obligations.lean ====
section
/-! DEFINITION. The statements for the provers, each from numbered rules of spec/ (OBLIGATIONS.json cites them). -/

open Sys2Proof Sys2Proof.Machine

namespace Sys2Proof.Certificates

/-- The input is refused by the decoder, and so is the step that would take it. -/
def RefusedInput (inp : Input) : Prop :=
  ∃ e, decode inp = .error e ∧
    ∀ (s : State) (rest : List Input), s.agenda = inp :: rest → step s = .refused (.undecodable e)

/-- `DRIVE L, a` as rules R130, R131 and R133 give it: the left wheel's compare registers and status, two records, and
nothing else. -/
def DriveLeft (i : Instr) (a : MotorStatus) : Prop :=
  ∀ s : State, ∃ on off : Word, IsOn s.cfg s.left.duty on ∧ IsOff s.cfg off ∧
    exec i s = .next
      { s with left := s.left.driven a on off, out := s.out ++ driveRecords .left a on off }

/-- `DRIVE R, a`, in the same way. -/
def DriveRight (i : Instr) (a : MotorStatus) : Prop :=
  ∀ s : State, ∃ on off : Word, IsOn s.cfg s.right.duty on ∧ IsOff s.cfg off ∧
    exec i s = .next
      { s with right := s.right.driven a on off, out := s.out ++ driveRecords .right a on off }

/-- `MOUSE m` as rules R191 and R192 give it, `tl` and `tr` being the two targets: a wheel is driven only if its status
differs from its target, left before right, and `MOUSESTAT` becomes `m`. -/
def MouseEffect (i : Instr) (m : MouseStatus) (tl tr : MotorStatus) : Prop :=
  ∀ s : State, ∃ onL onR off : Word,
    IsOn s.cfg s.left.duty onL ∧ IsOn s.cfg s.right.duty onR ∧ IsOff s.cfg off ∧
    exec i s = .next
      { s with
        left := if s.left.mstat = tl then s.left else s.left.driven tl onL off
        right := if s.right.mstat = tr then s.right else s.right.driven tr onR off
        mouseStat := m
        out := s.out ++ (if s.left.mstat = tl then [] else driveRecords .left tl onL off)
          ++ (if s.right.mstat = tr then [] else driveRecords .right tr onR off) }

/-- A read that answers `v`: the host gets the word and nothing else changes. -/
def Reads (s : State) (addr : Addr) (v : Word) : Prop :=
  exec (.rd addr) s = .next { s with reply := some (.word v) }

/-- The codes of a motor status (rule R21), as numbers. -/
def statusCode : MotorStatus → Nat
  | .fwd => 0
  | .rev => 1
  | .stop => 2

/-- The codes of the mouse status (rule R22), as numbers. -/
def mouseStatusCode : MouseStatus → Nat
  | .fwd => 0
  | .rev => 1
  | .stop => 2
  | .turnLeft => 3
  | .turnRight => 4
  | .turnAround => 5

/-- The service step of a wheel's capture unit. -/
def captureService : Wheel → Instr
  | .left => .capsvcL
  | .right => .capsvcR

end Sys2Proof.Certificates

open Sys2Proof.Certificates

/-! ## Encodings -/

/-- Every well-formed operation that has bits or a source code is read back from them, every operand at every value; the
operations without an input are exactly the two pure functions. -/
def Obligations.EncodeThenDecodeIsIdentity : Prop :=
  ∀ i : Instr, i.WellFormed →
    (∀ inp, encode i = some inp → decode inp = .ok i) ∧
    (encode i = none ↔ ∃ n v k, i = .setbit n v k ∨ i = .clrbit n v k)

/-- The decoder accepts nothing but encodings: what it reads is well formed and its encoding is the input it was read
from, so each word has one meaning and no reserved word falls through to a neighbour. -/
def Obligations.DecodeAcceptsOnlyEncodings : Prop :=
  ∀ (inp : Input) (i : Instr), decode inp = .ok i → i.WellFormed ∧ encode i = some inp

/-- The words that rule R97 and 95_test_vectors.md write out. -/
def Obligations.ListedWordsDecode : Prop :=
  decode (.host 0x100010#21) = .ok .driveLFwd ∧ decode (.host 0x100016#21) = .ok .driveRStop ∧
    decode (.host 0x100025#21) = .ok .mouseTa ∧ decode (.host 0x160064#21) = .ok (.lddist 0x0064#16) ∧
    decode (.host 0x010000#21) = .ok (.rd 0x1#4) ∧ decode (.event 0x01000#18) = .ok (.edgeL 0x1000#16) ∧
    decode (.event 0x10180#18) = .ok (.edgeR 0x0180#16) ∧ decode (.event 0x20000#18) = .ok .tof

/-- The reserved encodings of rule R98, clause by clause, are refused. -/
def Obligations.ReservedEncodingsAreRefused : Prop :=
  (∀ v : Word, (v.extractLsb' 8 8 ≠ 0 ∨ v.extractLsb' 3 1 ≠ 0 ∨
      (v.extractLsb' 4 4 ≠ 1 ∧ v.extractLsb' 4 4 ≠ 2)) → RefusedInput (.host (1#1 ++ 0#4 ++ v))) ∧
  (RefusedInput (.host (1#1 ++ 0#4 ++ 0x0013#16)) ∧ RefusedInput (.host (1#1 ++ 0#4 ++ 0x0017#16))) ∧
  (RefusedInput (.host (1#1 ++ 0#4 ++ 0x0026#16)) ∧ RefusedInput (.host (1#1 ++ 0#4 ++ 0x0027#16))) ∧
  (∀ (addr : Addr) (v : Word), addr ≠ 0x0#4 → addr ≠ 0x6#4 → RefusedInput (.host (1#1 ++ addr ++ v))) ∧
  (∀ v : Word, RefusedInput (.host (0#1 ++ 0x7#4 ++ v)) ∧ RefusedInput (.host (0#1 ++ 0xE#4 ++ v)) ∧
    RefusedInput (.host (0#1 ++ 0xF#4 ++ v))) ∧
  (∀ (addr : Addr) (v : Word), v ≠ 0 → RefusedInput (.host (0#1 ++ addr ++ v))) ∧
  (∀ ts : Word, RefusedInput (.event (3#2 ++ ts))) ∧
  (∀ ts : Word, ts ≠ 0 → RefusedInput (.event (2#2 ++ ts)))

/-- A write to `CMD` is a command exactly for twelve words (rule R215). -/
def Obligations.CommandRegisterTakesTwelveWords : Prop :=
  ∀ v : Word, (∃ i, decode (.host (1#1 ++ 0#4 ++ v)) = .ok i) ↔
    v ∈ [0x0010#16, 0x0011#16, 0x0012#16, 0x0014#16, 0x0015#16, 0x0016#16,
      0x0020#16, 0x0021#16, 0x0022#16, 0x0023#16, 0x0024#16, 0x0025#16]

/-! ## The step -/

/-- When the next input decodes to an operation, the step is that operation, with the input taken off the agenda. -/
def Obligations.StepRunsDecodedInput : Prop :=
  ∀ (s : State) (inp : Input) (rest : List Input) (i : Instr),
    s.agenda = inp :: rest → decode inp = .ok i → step s = exec i { s with agenda := rest }

/-- Idle (rule R246): with no input waiting and no flag pending, all state survives the step. -/
def Obligations.IdleStepKeepsAllState : Prop :=
  ∀ s : State, s.agenda = [] → s.Quiescent → step s = .next s

/-- With no input waiting and some flag pending, the step is the service step of a pending source; which one is not said
(the model's choice of notes/assumptions/4.md), and only the count of draws may differ. -/
def Obligations.UnattendedStepServesPendingSource : Prop :=
  ∀ s : State, s.agenda = [] → ¬ s.Quiescent →
    ∃ (src : Source) (n : Nat), s.flag src = 1 ∧ step s = exec (serviceInstr src) { s with draws := n }

/-- Any enabled step may be the next one (rule R236): standing first on the agenda, a well-formed operation is taken
and answers a next state exactly when it is no service step or its flag is 1. -/
def Obligations.AnyEnabledStepMayComeNext : Prop :=
  ∀ (s : State) (i : Instr) (inp : Input) (rest : List Input),
    i.WellFormed → encode i = some inp → s.agenda = inp :: rest →
      ((∃ t, step s = .next t) ↔ ∀ src, i = serviceInstr src → s.flag src = 1)

/-- No step faults, and a step is refused only for a reserved encoding or for a service step whose flag is 0. -/
def Obligations.EveryStopIsNamed : Prop :=
  ∀ s : State, (∃ t, step s = .next t) ∨
    (∃ inp rest e, s.agenda = inp :: rest ∧ decode inp = .error e ∧ step s = .refused (.undecodable e)) ∨
    (∃ src rest, s.agenda = .service src :: rest ∧ s.flag src = 0 ∧
      step s = .refused (.serviceNotEnabled src))

/-- With no input waiting, the block is quiescent after three steps, whatever the free choices are (the model's choice of
notes/assumptions/4.md; rule R237 asks only that a pending service runs eventually). -/
def Obligations.UnattendedBlockIsQuiescentInThreeSteps : Prop :=
  ∀ s : State, s.agenda = [] →
    ∃ t, Host.Core.run core 3 s = .next t ∧ State.Quiescent t

/-- A table word that decodes is the operation the next step runs, in the state it was given (for a service step, with
its flag raised); the host's two entry points agree. -/
def Obligations.FetchedTableWordRuns : Prop :=
  ∀ (s : State) (nbits w : Nat) (i : Instr), decodeTableWord nbits w = some i →
    ((∀ src, i ≠ serviceInstr src) ∧ step (s.withFetchWord nbits w) = exec i s) ∨
    (∃ src, i = serviceInstr src ∧ step (s.withFetchWord nbits w) = exec i (s.raiseFlag src))

/-! ## Reset, configuration, invariants -/

/-- The reset state of rule R33, for every legal configuration; `State.reset` is one of these states. -/
def Obligations.ResetStateValues : Prop :=
  (∀ c : Config, ∀ u ∈ [(State.resetOf c).left, (State.resetOf c).right],
    u.mstat = .stop ∧ u.duty.toNat = c.raw.defaultSpeed ∧ u.delta = 0 ∧ u.prev = 0 ∧ u.cap = 0 ∧
      u.cmpA.toNat = c.raw.offValue ∧ u.cmpB.toNat = c.raw.offValue ∧ u.capFlag = 0) ∧
  (∀ c : Config, (State.resetOf c).mouseStat = .stop ∧ (State.resetOf c).dist = 0 ∧
    (State.resetOf c).tofFlag = 0 ∧ (State.resetOf c).out = [] ∧ (State.resetOf c).cfg = c ∧
    Reads (State.resetOf c) 0x1#4 0x002A#16) ∧
  State.reset = State.resetOf State.reset.cfg

/-- The values of rules R6 and R7: `STEP` is 2; the reset state's configuration has `OFF_VALUE` = `PWM_PERIOD_TICKS`,
`PW_MIN` = 10, `PW_MAX` = 90 and a control period of 50 ms; and with these values every choice of the OPEN parameters within
their constraints is legal and starts the block in its reset state. Which OPEN values `State.reset` has is not said
(notes/assumptions/1.md). -/
def Obligations.DefaultConfigurationValues : Prop :=
  correctionStep = 2 ∧
  (State.reset.cfg.raw.offValue = State.reset.cfg.raw.pwmPeriodTicks ∧ State.reset.cfg.raw.pwMin = 10 ∧
    State.reset.cfg.raw.pwMax = 90 ∧ State.reset.cfg.raw.controlPeriodMs = 50) ∧
  ∀ period speed clock pwmMs : Nat, 1 ≤ period → period < 2 ^ 16 → 10 ≤ speed → speed ≤ 90 →
    ∃ c : Config,
      c.raw = { pwmPeriodTicks := period, defaultSpeed := speed, busClockMHz := clock, pwmPeriodMs := pwmMs } ∧
      (c.raw.offValue = period ∧ c.raw.pwMin = 10 ∧ c.raw.pwMax = 90 ∧ c.raw.controlPeriodMs = 50) ∧
      configure c.raw = .next (State.resetOf c)

/-- Rule R8: a legal configuration starts the block in its reset state, an illegal one is refused. -/
def Obligations.IllegalConfigurationIsRefused : Prop :=
  ∀ r : RawConfig,
    ((0 ≤ r.pwMin ∧ r.pwMin ≤ r.defaultSpeed ∧ r.defaultSpeed ≤ r.pwMax ∧ r.pwMax ≤ 100 ∧
        1 ≤ r.pwmPeriodTicks ∧ r.pwmPeriodTicks ≤ r.offValue ∧ r.offValue < 2 ^ 16) →
      ∃ c : Config, c.raw = r ∧ configure r = .next (State.resetOf c)) ∧
    (¬ (0 ≤ r.pwMin ∧ r.pwMin ≤ r.defaultSpeed ∧ r.defaultSpeed ≤ r.pwMax ∧ r.pwMax ≤ 100 ∧
        1 ≤ r.pwmPeriodTicks ∧ r.pwmPeriodTicks ≤ r.offValue ∧ r.offValue < 2 ^ 16) →
      configure r = .refused .illegalConfiguration)

/-- The invariant of rule R32 holds at reset, for every legal configuration. -/
def Obligations.ResetMeetsInvariant : Prop :=
  State.reset.Inv ∧ ∀ c : Config, (State.resetOf c).Inv

/-- Every step keeps the invariant of rule R32, from every state that has it. -/
def Obligations.StepKeepsInvariant : Prop :=
  ∀ s t : State, s.Inv → step s = .next t → t.Inv

/-- Rule R32 over runs: under every legal configuration, for every sequence of inputs and service turns and every
number of steps, the state reached from reset has (I-a) and (I-c), and its codes and its distance are legal ((I-b), (I-d)). The rule itself says
"(I-a) and (I-d) are the document's; (I-b) and (I-c) are [derived: from rules R33, R131, R152, R172, R191 and R214". -/
def Obligations.EveryReachableStateMeetsInvariant : Prop :=
  ∀ (c : Config) (inputs : List Input) (n : Nat) (t : State),
    Host.Core.run core n { State.resetOf c with agenda := inputs } = .next t →
      t.Inv ∧ (motorCode t.left.mstat).toNat ≤ 2 ∧ (motorCode t.right.mstat).toNat ≤ 2 ∧
        (mouseCode t.mouseStat).toNat ≤ 5 ∧ 0 ≤ t.dist.toNat

/-- No step changes a parameter (rules R7, R11), and the trace only grows (rule R12). -/
def Obligations.ParametersFixedAndTraceGrows : Prop :=
  ∀ s t : State, step s = .next t → t.cfg = s.cfg ∧ s.out <+: t.out

/-! ## The PWM motor driver -/

/-- The six `DRIVE` commands: their words and their effect. -/
def Obligations.DriveCommandsEffect : Prop :=
  (decode (.host 0x100010#21) = .ok .driveLFwd ∧ DriveLeft .driveLFwd .fwd) ∧
  (decode (.host 0x100011#21) = .ok .driveLRev ∧ DriveLeft .driveLRev .rev) ∧
  (decode (.host 0x100012#21) = .ok .driveLStop ∧ DriveLeft .driveLStop .stop) ∧
  (decode (.host 0x100014#21) = .ok .driveRFwd ∧ DriveRight .driveRFwd .fwd) ∧
  (decode (.host 0x100015#21) = .ok .driveRRev ∧ DriveRight .driveRRev .rev) ∧
  (decode (.host 0x100016#21) = .ok .driveRStop ∧ DriveRight .driveRStop .stop)

/-- The "on" value: nothing at 0 percent, the whole period at and above 100 percent, never more than the period, and
monotonic in the duty cycle (rules R132, R135, R136). -/
def Obligations.OnValueIsMonotonic : Prop :=
  ∀ c : Config, (dutyval c 0 = 0) ∧
    (∀ d : Duty, 100 ≤ d.toNat → (dutyval c d).toNat = c.raw.pwmPeriodTicks) ∧
    (∀ d : Duty, (dutyval c d).toNat ≤ c.raw.pwmPeriodTicks) ∧
    (∀ d₁ d₂ : Duty, d₁.toNat ≤ d₂.toNat → (dutyval c d₁).toNat ≤ (dutyval c d₂).toNat)

/-! ## Tachometer capture -/

/-- `EDGE.w ts` (rule R150): its word, and its effect from every state, whatever the flag was. -/
def Obligations.EdgeEventsEffect : Prop :=
  ∀ (ts : Word) (s : State),
    (decode (.event (0#2 ++ ts)) = .ok (.edgeL ts) ∧
      exec (.edgeL ts) s = .next { s with left := { s.left with cap := ts, capFlag := 1 } }) ∧
    (decode (.event (1#2 ++ ts)) = .ok (.edgeR ts) ∧
      exec (.edgeR ts) s = .next { s with right := { s.right with cap := ts, capFlag := 1 } })

/-- Overrun (rules R150, R273): of two edges before a service the second alone leaves a mark. -/
def Obligations.OverrunKeepsOnlySecondEdge : Prop :=
  ∀ (w : Wheel) (ts₁ ts₂ : Word) (s : State),
    ∃ t, execAll [edgeInstr w ts₁, edgeInstr w ts₂] s = .next t ∧ execAll [edgeInstr w ts₂] s = .next t

/-- `CAPSVC.L` and `CAPSVC.R` (rules R152, R153): enabled exactly while the flag is 1; the delta modulo 2^16, the stored
timestamp, the saturating countdown, the cleared flag, the three records, and nothing else. -/
def Obligations.CaptureServicesEffect : Prop :=
  (decode (.service .capL) = .ok .capsvcL ∧ decode (.service .capR) = .ok .capsvcR) ∧
  (∀ s : State, (s.left.capFlag = 1 → ∃ d x : Word,
      d.toNat = (s.left.cap.toNat + 65536 - s.left.prev.toNat) % 65536 ∧ x.toNat = s.dist.toNat - 1 ∧
      exec .capsvcL s = .next
        { s with
          left := { s.left with delta := d, prev := s.left.cap, capFlag := 0 }
          dist := x
          out := s.out ++ [.capRead .left, .flagRead .capL, .flagWrite0 .capL] }) ∧
    (s.left.capFlag = 0 → exec .capsvcL s = .refused (.serviceNotEnabled .capL))) ∧
  (∀ s : State, (s.right.capFlag = 1 → ∃ d x : Word,
      d.toNat = (s.right.cap.toNat + 65536 - s.right.prev.toNat) % 65536 ∧ x.toNat = s.dist.toNat - 1 ∧
      exec .capsvcR s = .next
        { s with
          right := { s.right with delta := d, prev := s.right.cap, capFlag := 0 }
          dist := x
          out := s.out ++ [.capRead .right, .flagRead .capR, .flagWrite0 .capR] }) ∧
    (s.right.capFlag = 0 → exec .capsvcR s = .refused (.serviceNotEnabled .capR)))

/-- The countdown (rule R154): `n` capture services in all, of either wheel and in any order, take `DIST` from `d` to
`max(d - n, 0)`, whatever other operations but a load fall between them; and serviced edges, however many, stop no motor
and raise no other event when the count is at 0. -/
def Obligations.CountdownSaturatesAtZero : Prop :=
  (∀ (ops : List Instr) (s t : State), (∀ v, .lddist v ∉ ops) → execAll ops s = .next t →
    t.dist.toNat = s.dist.toNat - (ops.count .capsvcL + ops.count .capsvcR)) ∧
  (∀ (edges : List (Wheel × Word)) (s : State),
    ∃ t, execAll (edges.flatMap fun p => [edgeInstr p.1 p.2, captureService p.1]) s = .next t ∧
      t.dist.toNat = s.dist.toNat - edges.length ∧
      t.left.mstat = s.left.mstat ∧ t.right.mstat = s.right.mstat ∧ t.mouseStat = s.mouseStat ∧
      t.tofFlag = s.tofFlag)

/-- The two capture services give the same state in either order, but for the order of their records (rule R69). -/
def Obligations.CaptureServicesCommute : Prop :=
  ∀ s : State, s.left.capFlag = 1 → s.right.capFlag = 1 →
    ∃ t u, execAll [.capsvcL, .capsvcR] s = .next t ∧ execAll [.capsvcR, .capsvcL] s = .next u ∧
      { t with out := [] } = { u with out := [] }

/-- The first delta after reset is the raw timestamp (rules R156, R271). -/
def Obligations.FirstDeltaIsRawTimestamp : Prop :=
  ∀ (c : Config) (w : Wheel) (ts : Word),
    ∃ t, execAll [edgeInstr w ts, captureService w] (State.resetOf c) = .next t ∧
      (t.wheel w).delta = ts ∧ (t.wheel w).prev = ts ∧ t.dist = 0

/-! ## The speed-balancing controller -/

/-- `TOF` (rule R170): its word, and its effect from every state, whatever the flag was. -/
def Obligations.OverflowEventEffect : Prop :=
  decode (.event 0x20000#18) = .ok .tof ∧ ∀ s : State, exec .tof s = .next { s with tofFlag := 1 }

/-- `CTLSVC` (rules R172 to R177): enabled exactly while `F[TOF]` is 1; with a wheel on `STOP` nothing but the flag
clear; else both duty cycles corrected over the integers and clamped, both wheels driven again with the status they have,
left before right, and then the flag clear. Nothing else changes. -/
def Obligations.BalanceServiceEffect : Prop :=
  decode (.service .tof) = .ok .ctlsvc ∧ ∀ s : State,
    (s.tofFlag = 1 → s.left.mstat ≠ .stop → s.right.mstat ≠ .stop →
      ∃ (dl dr : Duty) (onL onR off : Word),
        (dl.toNat : Int) = nearest s.cfg
          (wanted s.left.delta.toNat s.right.delta.toNat s.left.duty.toNat s.right.duty.toNat).1 ∧
        (dr.toNat : Int) = nearest s.cfg
          (wanted s.left.delta.toNat s.right.delta.toNat s.left.duty.toNat s.right.duty.toNat).2 ∧
        IsOn s.cfg dl onL ∧ IsOn s.cfg dr onR ∧ IsOff s.cfg off ∧
        exec .ctlsvc s = .next
          { s with
            left := { s.left with
              duty := dl, cmpA := onLegA s.left.mstat onL off, cmpB := onLegB s.left.mstat onL off }
            right := { s.right with
              duty := dr, cmpA := onLegA s.right.mstat onR off, cmpB := onLegB s.right.mstat onR off }
            tofFlag := 0
            out := s.out ++ driveRecords .left s.left.mstat onL off
              ++ driveRecords .right s.right.mstat onR off ++ [.flagRead .tof, .flagWrite0 .tof] }) ∧
    (s.tofFlag = 1 → (s.left.mstat = .stop ∨ s.right.mstat = .stop) →
      exec .ctlsvc s = .next
        { s with tofFlag := 0, out := s.out ++ [.flagRead .tof, .flagWrite0 .tof] }) ∧
    (s.tofFlag = 0 → exec .ctlsvc s = .refused (.serviceNotEnabled .tof))

/-- A correction leaves both duty cycles in range, from any values before, in range or not (rule R178 (a)). -/
def Obligations.CorrectionLandsInRange : Prop :=
  ∀ s : State, s.tofFlag = 1 → s.left.mstat ≠ .stop → s.right.mstat ≠ .stop →
    ∃ t, exec .ctlsvc s = .next t ∧ ∀ w,
      s.cfg.raw.pwMin ≤ (t.wheel w).duty.toNat ∧ (t.wheel w).duty.toNat ≤ s.cfg.raw.pwMax

/-- From duty cycles in range, a correction changes their sum by at most 2, and not at all where both wanted values are in
range, so that neither is clamped (rule R178 (d)). -/
def Obligations.CorrectionConservesSum : Prop :=
  ∀ s t : State, s.Inv → exec .ctlsvc s = .next t →
    let before : Int := s.left.duty.toNat + s.right.duty.toNat
    let after : Int := t.left.duty.toNat + t.right.duty.toNat
    let n := wanted s.left.delta.toNat s.right.delta.toNat s.left.duty.toNat s.right.duty.toNat
    (before - 2 ≤ after ∧ after ≤ before + 2) ∧
    ((s.cfg.raw.pwMin : Int) ≤ n.1 → n.1 ≤ (s.cfg.raw.pwMax : Int) → (s.cfg.raw.pwMin : Int) ≤ n.2 →
      n.2 ≤ (s.cfg.raw.pwMax : Int) → after = before)

/-- The two ends are fixed points of the correction that pushes towards them (rule R178 (e)). -/
def Obligations.CorrectionFixedPoints : Prop :=
  ∀ s t : State, exec .ctlsvc s = .next t →
    (s.left.duty.toNat = s.cfg.raw.pwMin → s.right.duty.toNat = s.cfg.raw.pwMax →
      s.right.delta.toNat < s.left.delta.toNat → t.left.duty = s.left.duty ∧ t.right.duty = s.right.duty) ∧
    (s.left.duty.toNat = s.cfg.raw.pwMax → s.right.duty.toNat = s.cfg.raw.pwMin →
      s.left.delta.toNat < s.right.delta.toNat → t.left.duty = s.left.duty ∧ t.right.duty = s.right.duty)

/-- At most one controller run per overflow (rule R70): after a run, no sequence of operations without a `TOF` enables
another. -/
def Obligations.OneControllerRunPerOverflow : Prop :=
  ∀ (s t u : State) (ops : List Instr), exec .ctlsvc s = .next t → .tof ∉ ops → execAll ops t = .next u →
    exec .ctlsvc u = .refused (.serviceNotEnabled .tof)

/-! ## The mouse-action dispatcher -/

/-- The six `MOUSE` commands: their words, their targets and their effect. -/
def Obligations.MouseCommandsEffect : Prop :=
  (decode (.host 0x100020#21) = .ok .mouseFwd ∧ MouseEffect .mouseFwd .fwd .fwd .fwd) ∧
  (decode (.host 0x100021#21) = .ok .mouseRev ∧ MouseEffect .mouseRev .rev .rev .rev) ∧
  (decode (.host 0x100022#21) = .ok .mouseStop ∧ MouseEffect .mouseStop .stop .stop .stop) ∧
  (decode (.host 0x100023#21) = .ok .mouseTl ∧ MouseEffect .mouseTl .turnLeft .stop .fwd) ∧
  (decode (.host 0x100024#21) = .ok .mouseTr ∧ MouseEffect .mouseTr .turnRight .fwd .stop) ∧
  (decode (.host 0x100025#21) = .ok .mouseTa ∧ MouseEffect .mouseTa .turnAround .fwd .rev)

/-- The dispatcher is idempotent (rule R193): after `MOUSE m` both wheels have the statuses of rule R192's table; the same
action again, in any state with those statuses and that `MOUSESTAT`, changes nothing at all, so it issues no PWM write; and
no operations other than `DRIVE` and `MOUSE` commands disturb that. -/
def Obligations.MouseIsIdempotent : Prop :=
  ∀ (m : MouseStatus) (s : State), ∃ t, exec (mouseInstr m) s = .next t ∧
    (t.left.mstat, t.right.mstat) = (match m with
      | .fwd => (.fwd, .fwd) | .rev => (.rev, .rev) | .stop => (.stop, .stop)
      | .turnLeft => (.stop, .fwd) | .turnRight => (.fwd, .stop) | .turnAround => (.fwd, .rev)) ∧
    exec (mouseInstr m) t = .next t ∧
    (∀ u : State, u.left.mstat = t.left.mstat → u.right.mstat = t.right.mstat → u.mouseStat = t.mouseStat →
      exec (mouseInstr m) u = .next u) ∧
    ∀ (ops : List Instr) (u : State),
      (∀ i ∈ ops, (∀ w a, i ≠ driveInstr w a) ∧ (∀ m', i ≠ mouseInstr m')) →
      execAll ops t = .next u → exec (mouseInstr m) u = .next u

/-! ## Host register access -/

/-- `RD addr` for every address (rules R210, R212): its word; the register's content goes to the host and nothing else
changes; the reserved addresses are refused. -/
def Obligations.ReadsReturnRegisters : Prop :=
  (∀ addr : Addr, addr ∉ [0x7#4, 0xE#4, 0xF#4] → decode (.host (0#1 ++ addr ++ 0#16)) = .ok (.rd addr)) ∧
  ∀ s : State, Reads s 0x0#4 0 ∧
    (∃ v : Word, Reads s 0x1#4 v ∧
      v.toNat = statusCode s.left.mstat + 4 * statusCode s.right.mstat + 16 * mouseStatusCode s.mouseStat +
        256 * s.left.capFlag.toNat + 512 * s.right.capFlag.toNat + 1024 * s.tofFlag.toNat) ∧
    Reads s 0x2#4 (BitVec.ofNat 16 s.left.duty.toNat) ∧ Reads s 0x3#4 (BitVec.ofNat 16 s.right.duty.toNat) ∧
    Reads s 0x4#4 s.left.delta ∧ Reads s 0x5#4 s.right.delta ∧ Reads s 0x6#4 s.dist ∧
    Reads s 0x8#4 s.left.cmpA ∧ Reads s 0x9#4 s.left.cmpB ∧
    Reads s 0xA#4 s.right.cmpA ∧ Reads s 0xB#4 s.right.cmpB ∧
    Reads s 0xC#4 s.left.cap ∧ Reads s 0xD#4 s.right.cap ∧
    ∀ addr ∈ [0x7#4, 0xE#4, 0xF#4], exec (.rd addr) s = .refused (.notReadable addr)

/-- The `STATUS` word (rule R31): `RD 0x1` answers the word with each field at its place and zeros at the reserved bits;
it is 0x002A at reset, and no write to it is taken. -/
def Obligations.StatusWordLayout : Prop :=
  (∀ s : State, ∃ v : Word, Reads s 0x1#4 v ∧
    (v.extractLsb' 0 2).toNat = statusCode s.left.mstat ∧ (v.extractLsb' 2 2).toNat = statusCode s.right.mstat ∧
    (v.extractLsb' 4 3).toNat = mouseStatusCode s.mouseStat ∧
    v.extractLsb' 7 1 = 0 ∧ v.extractLsb' 8 1 = s.left.capFlag ∧ v.extractLsb' 9 1 = s.right.capFlag ∧
    v.extractLsb' 10 1 = s.tofFlag ∧ v.extractLsb' 11 5 = 0) ∧
  (∀ c : Config, Reads (State.resetOf c) 0x1#4 0x002A#16) ∧
  ∀ v : Word, RefusedInput (.host (1#1 ++ 0x1#4 ++ v))

/-- `WR 0x6, v` (rule R214): its word and its effect. -/
def Obligations.DistanceLoadEffect : Prop :=
  ∀ (v : Word) (s : State), decode (.host (1#1 ++ 0x6#4 ++ v)) = .ok (.lddist v) ∧
    exec (.lddist v) s = .next { s with dist := v }

/-! ## The bit-field utility -/

/-- `SETBIT v, i` at every width (rule R120): bit `i` is 1 and every other bit is the value's; an index not below the
width is refused. -/
def Obligations.SetBitEffect : Prop :=
  ∀ (n : Nat) (v : BitVec n) (i : Nat) (s : State),
    (i < n → ∃ r : BitVec n, (∀ j, j < n → r.getLsbD j = if j = i then true else v.getLsbD j) ∧
      exec (.setbit n v i) s = .next { s with reply := some (.bits n r) }) ∧
    (n ≤ i → exec (.setbit n v i) s = .refused (.bitIndexOutOfRange n i))

/-- `CLRBIT v, i` at every width (rule R121). -/
def Obligations.ClearBitEffect : Prop :=
  ∀ (n : Nat) (v : BitVec n) (i : Nat) (s : State),
    (i < n → ∃ r : BitVec n, (∀ j, j < n → r.getLsbD j = if j = i then false else v.getLsbD j) ∧
      exec (.clrbit n v i) s = .next { s with reply := some (.bits n r) }) ∧
    (n ≤ i → exec (.clrbit n v i) s = .refused (.bitIndexOutOfRange n i))

/-- The laws of rule R122. -/
def Obligations.BitFieldLaws : Prop :=
  ∀ (n : Nat) (v : BitVec n) (i j : Nat),
    clrBit (setBit v i) i = clrBit v i ∧ setBit (clrBit v i) i = setBit v i ∧
    (i ≠ j → setBit (clrBit v i) j = clrBit (setBit v j) i)

/-! ## Whole-machine rules -/

/-- Who may write what (the table of rule R20): a register that an operation changes is one that operation may write; a
pending flag becomes 1 only by its event and 0 only by its service step (rule R29); and only the driver's callers and the
service steps append to the trace. The last four fields are the model's own, not the table's: `reply` changes only by an
operation that answers its caller, and no operation changes the parameters `cfg`, the `agenda` or `draws`
(notes/assumptions/6.md, 1.md, 3.md, 4.md). -/
def Obligations.EachRegisterHasItsWriters : Prop :=
  ∀ (i : Instr) (s t : State), exec i s = .next t →
    (∀ w, (t.wheel w).mstat ≠ (s.wheel w).mstat → (∃ a, i = driveInstr w a) ∨ ∃ m, i = mouseInstr m) ∧
    (t.mouseStat ≠ s.mouseStat → ∃ m, i = mouseInstr m) ∧
    (∀ w, (t.wheel w).duty ≠ (s.wheel w).duty → i = .ctlsvc) ∧
    (∀ w, ((t.wheel w).delta ≠ (s.wheel w).delta ∨ (t.wheel w).prev ≠ (s.wheel w).prev) →
      i = captureService w) ∧
    (∀ w, (t.wheel w).cap ≠ (s.wheel w).cap → ∃ ts, i = edgeInstr w ts) ∧
    (t.dist ≠ s.dist → (∃ w, i = captureService w) ∨ ∃ v, i = .lddist v) ∧
    (∀ w, ((t.wheel w).cmpA ≠ (s.wheel w).cmpA ∨ (t.wheel w).cmpB ≠ (s.wheel w).cmpB) →
      (∃ a, i = driveInstr w a) ∨ (∃ m, i = mouseInstr m) ∨ i = .ctlsvc) ∧
    (∀ w, (t.wheel w).capFlag ≠ (s.wheel w).capFlag →
      ((t.wheel w).capFlag = 1 ∧ ∃ ts, i = edgeInstr w ts) ∨
        ((t.wheel w).capFlag = 0 ∧ i = captureService w)) ∧
    (t.tofFlag ≠ s.tofFlag → (t.tofFlag = 1 ∧ i = .tof) ∨ (t.tofFlag = 0 ∧ i = .ctlsvc)) ∧
    (t.out ≠ s.out → (∃ w a, i = driveInstr w a) ∨ (∃ m, i = mouseInstr m) ∨ ∃ src, i = serviceInstr src) ∧
    (t.reply ≠ s.reply → (∃ a, i = .rd a) ∨ (∃ n v k, i = .setbit n v k) ∨ ∃ n v k, i = .clrbit n v k) ∧
    t.cfg = s.cfg ∧ t.agenda = s.agenda ∧ t.draws = s.draws

/-- A pending event is never lost (rule R235): a flag once raised stays 1 through any operations but its own service
step, which is enabled until it runs. -/
def Obligations.PendingEventIsNeverLost : Prop :=
  ∀ (src : Source) (ops : List Instr) (s t : State), s.flag src = 1 → serviceInstr src ∉ ops →
    execAll ops s = .next t → t.flag src = 1 ∧ ∃ u, exec (serviceInstr src) t = .next u ∧ u.flag src = 0

/-- The flag clear happens exactly once per service step, read directly before write, last on the trace; no other
operation reads or clears a flag on the trace (rules R155, R177, R277). -/
def Obligations.FlagIsClearedExactlyOnce : Prop :=
  ∀ (i : Instr) (s t : State), exec i s = .next t →
    ∃ records, t.out = s.out ++ records ∧ ∀ src,
      (i = serviceInstr src → [.flagRead src, .flagWrite0 src] <:+ records) ∧
      records.count (.flagRead src) = (if i = serviceInstr src then 1 else 0) ∧
      records.count (.flagWrite0 src) = (if i = serviceInstr src then 1 else 0)
end

