-- ==== Sys2Proof/Laws/Decode.lean ====
section
/-! SUPPORT. The fields of the words that the encoder builds, and the codes' round trips. -/

namespace Sys2Proof

/-- The bits of a format H word. -/
theorem hostWord_getLsbD (we : BitVec 1) (addr : Addr) (data : Word) (j : Nat) :
    (hostWord we addr data).getLsbD j =
      if j < 16 then data.getLsbD j
      else if j - 16 < 4 then addr.getLsbD (j - 16) else we.getLsbD (j - 16 - 4) := by
  change (we ++ addr ++ data : BitVec (1 + 4 + 16)).getLsbD j = _
  rw [BitVec.getLsbD_append, BitVec.getLsbD_append]

/-- The bits of a format E word. -/
theorem eventWord_getLsbD (src : BitVec 2) (ts : Word) (j : Nat) :
    (eventWord src ts).getLsbD j = if j < 16 then ts.getLsbD j else src.getLsbD (j - 16) := by
  change (src ++ ts : BitVec (2 + 16)).getLsbD j = _
  rw [BitVec.getLsbD_append]

theorem hostWord_we (we : BitVec 1) (addr : Addr) (data : Word) :
    (hostWord we addr data).extractLsb' 20 1 = we := by
  apply BitVec.eq_of_getLsbD_eq
  intro j hj
  rw [BitVec.getLsbD_extractLsb', hostWord_getLsbD]
  obtain rfl : j = 0 := by omega
  simp

theorem hostWord_addr (we : BitVec 1) (addr : Addr) (data : Word) :
    (hostWord we addr data).extractLsb' 16 4 = addr := by
  apply BitVec.eq_of_getLsbD_eq
  intro j hj
  rw [BitVec.getLsbD_extractLsb', hostWord_getLsbD]
  simp [hj]

theorem hostWord_data (we : BitVec 1) (addr : Addr) (data : Word) :
    (hostWord we addr data).extractLsb' 0 16 = data := by
  apply BitVec.eq_of_getLsbD_eq
  intro j hj
  rw [BitVec.getLsbD_extractLsb', hostWord_getLsbD]
  simp [hj]

theorem eventWord_src (src : BitVec 2) (ts : Word) : (eventWord src ts).extractLsb' 16 2 = src := by
  apply BitVec.eq_of_getLsbD_eq
  intro j hj
  rw [BitVec.getLsbD_extractLsb', eventWord_getLsbD]
  simp [hj]

theorem eventWord_ts (src : BitVec 2) (ts : Word) : (eventWord src ts).extractLsb' 0 16 = ts := by
  apply BitVec.eq_of_getLsbD_eq
  intro j hj
  rw [BitVec.getLsbD_extractLsb', eventWord_getLsbD]
  simp [hj]

/-- Every format H word is the word of its three fields. -/
theorem hostWord_fields (w : HostWord) :
    hostWord (w.extractLsb' 20 1) (w.extractLsb' 16 4) (w.extractLsb' 0 16) = w := by
  apply BitVec.eq_of_getLsbD_eq
  intro j hj
  rw [hostWord_getLsbD, BitVec.getLsbD_extractLsb', BitVec.getLsbD_extractLsb', BitVec.getLsbD_extractLsb']
  split
  · simp [show j < 16 by omega]
  · split
    · simp [show j - 16 < 4 by omega, show 16 + (j - 16) = j by omega]
    · simp [show j = 20 by omega]

/-- Every format E word is the word of its two fields. -/
theorem eventWord_fields (w : EventWord) : eventWord (w.extractLsb' 16 2) (w.extractLsb' 0 16) = w := by
  apply BitVec.eq_of_getLsbD_eq
  intro j hj
  rw [eventWord_getLsbD, BitVec.getLsbD_extractLsb', BitVec.getLsbD_extractLsb']
  split
  · simp [show j < 16 by omega]
  · simp [show j - 16 < 2 by omega, show 16 + (j - 16) = j by omega]

/-- How a format H word decodes, by its fields. -/
theorem decode_hostWord (we : BitVec 1) (addr : Addr) (data : Word) :
    decode (.host (hostWord we addr data)) = if we = 0 then decodeRead addr data else decodeWrite addr data := by
  simp only [decode, decodeHost, hostWord_we, hostWord_addr, hostWord_data]

theorem motorOfCode_motorCode (a : MotorStatus) : motorOfCode (motorCode a) = some a := by cases a <;> rfl

theorem mouseOfCode_mouseCode (m : MouseStatus) : mouseOfCode (mouseCode m) = some m := by cases m <;> rfl

theorem wheelOfCode_wheelCode (w : Wheel) : wheelOfCode (wheelCode w) = w := by cases w <;> rfl

theorem decodeCommand_driveCommand (w : Wheel) (a : MotorStatus) :
    decodeCommand (driveCommand w a) = .ok (driveInstr w a) := by
  cases w <;> cases a <;> rfl

theorem decodeCommand_mouseCommand (m : MouseStatus) :
    decodeCommand (mouseCommand m) = .ok (mouseInstr m) := by
  cases m <;> rfl

theorem motorOfCode_some {c : BitVec 2} {a : MotorStatus} (h : motorOfCode c = some a) : c = motorCode a := by
  revert c; cases a <;> decide

theorem mouseOfCode_some {c : BitVec 3} {m : MouseStatus} (h : mouseOfCode c = some m) : c = mouseCode m := by
  revert c; cases m <;> decide

/-- A field of a word, as a number. -/
theorem field_toNat (v : Word) (lo len : Nat) : (v.extractLsb' lo len).toNat = v.toNat / 2 ^ lo % 2 ^ len := by
  simp [BitVec.extractLsb'_toNat, Nat.shiftRight_eq_div_pow]

/-- A command word that decodes is the command word of a `DRIVE` or of a `MOUSE`. -/
theorem decodeCommand_ok {v : Word} {i : Instr} (h : decodeCommand v = .ok i) :
    (∃ w a, i = driveInstr w a ∧ v = driveCommand w a) ∨ (∃ m, i = mouseInstr m ∧ v = mouseCommand m) := by
  unfold decodeCommand at h
  split at h
  · cases h
  · rename_i hz
    rw [not_or, not_not, not_not] at hz
    have h8 := congrArg BitVec.toNat hz.1
    have h3 := congrArg BitVec.toNat hz.2
    rw [field_toNat] at h8 h3
    split at h
    · rename_i hop
      rw [field_toNat] at hop
      split at h
      · rename_i a ha
        cases h
        refine .inl ⟨_, a, rfl, ?_⟩
        have h0 := congrArg BitVec.toNat (motorOfCode_some ha)
        rw [field_toNat] at h0
        rcases (show v.extractLsb' 2 1 = 0 ∨ v.extractLsb' 2 1 = 1 by
          generalize v.extractLsb' 2 1 = x; revert x; decide) with hw | hw <;>
        · rw [hw]
          have h2 := congrArg BitVec.toNat hw
          rw [field_toNat] at h2
          apply BitVec.eq_of_toNat_eq
          cases a <;> simp [motorCode] at h0 <;> simp [driveCommand, wheelOfCode, wheelCode, motorCode] <;>
            simp at h8 h3 h2 hop <;> omega
      · cases h
    · rename_i hop
      rw [field_toNat] at hop
      split at h
      · rename_i m hm
        cases h
        refine .inr ⟨m, rfl, ?_⟩
        have h0 := congrArg BitVec.toNat (mouseOfCode_some hm)
        rw [field_toNat] at h0
        apply BitVec.eq_of_toNat_eq
        cases m <;> simp [mouseCode] at h0 <;> simp [mouseCommand, mouseCode] <;>
          simp at h8 h3 hop <;> omega
      · cases h
    · cases h

end Sys2Proof
end

