-- ==== Sys2Proof/Laws/State.lean ====
section
/-! SUPPORT. Each register update, field by field, so that no proof unfolds a record update. -/

namespace Sys2Proof.Machine

@[simp] theorem State.left_eq_wheel (s : State) : s.wheel .left = s.left := rfl

@[simp] theorem State.right_eq_wheel (s : State) : s.wheel .right = s.right := rfl

@[simp] theorem State.wheel_setWheel_self (s : State) (w : Wheel) (u : WheelUnit) :
    (s.setWheel w u).wheel w = u := by cases w <;> rfl

theorem State.wheel_setWheel_ne (s : State) (w w' : Wheel) (u : WheelUnit) (h : w' ≠ w) :
    (s.setWheel w u).wheel w' = s.wheel w' := by
  cases w <;> cases w' <;> first | rfl | exact absurd rfl h

theorem State.wheel_setWheel (s : State) (w w' : Wheel) (u : WheelUnit) :
    (s.setWheel w u).wheel w' = if w' = w then u else s.wheel w' := by
  cases w <;> cases w' <;> rfl

@[simp] theorem State.setWheel_mouseStat (s : State) (w : Wheel) (u : WheelUnit) :
    (s.setWheel w u).mouseStat = s.mouseStat := by cases w <;> rfl

@[simp] theorem State.setWheel_dist (s : State) (w : Wheel) (u : WheelUnit) :
    (s.setWheel w u).dist = s.dist := by cases w <;> rfl

@[simp] theorem State.setWheel_tofFlag (s : State) (w : Wheel) (u : WheelUnit) :
    (s.setWheel w u).tofFlag = s.tofFlag := by cases w <;> rfl

@[simp] theorem State.setWheel_out (s : State) (w : Wheel) (u : WheelUnit) :
    (s.setWheel w u).out = s.out := by cases w <;> rfl

@[simp] theorem State.setWheel_cfg (s : State) (w : Wheel) (u : WheelUnit) :
    (s.setWheel w u).cfg = s.cfg := by cases w <;> rfl

@[simp] theorem State.setWheel_reply (s : State) (w : Wheel) (u : WheelUnit) :
    (s.setWheel w u).reply = s.reply := by cases w <;> rfl

@[simp] theorem State.setWheel_agenda (s : State) (w : Wheel) (u : WheelUnit) :
    (s.setWheel w u).agenda = s.agenda := by cases w <;> rfl

@[simp] theorem State.setWheel_draws (s : State) (w : Wheel) (u : WheelUnit) :
    (s.setWheel w u).draws = s.draws := by cases w <;> rfl

@[simp] theorem State.emit_mouseStat (s : State) (r : OutRecord) :
    (s.emit r).mouseStat = s.mouseStat := rfl

@[simp] theorem State.emit_dist (s : State) (r : OutRecord) :
    (s.emit r).dist = s.dist := rfl

@[simp] theorem State.emit_tofFlag (s : State) (r : OutRecord) :
    (s.emit r).tofFlag = s.tofFlag := rfl

@[simp] theorem State.emit_out (s : State) (r : OutRecord) :
    (s.emit r).out = s.out ++ [r] := rfl

@[simp] theorem State.emit_cfg (s : State) (r : OutRecord) :
    (s.emit r).cfg = s.cfg := rfl

@[simp] theorem State.emit_reply (s : State) (r : OutRecord) :
    (s.emit r).reply = s.reply := rfl

@[simp] theorem State.emit_agenda (s : State) (r : OutRecord) :
    (s.emit r).agenda = s.agenda := rfl

@[simp] theorem State.emit_draws (s : State) (r : OutRecord) :
    (s.emit r).draws = s.draws := rfl

@[simp] theorem State.emit_wheel (s : State) (r : OutRecord) (w : Wheel) :
    (s.emit r).wheel w = s.wheel w := by cases w <;> rfl

@[simp] theorem State.writeCmp_mouseStat (s : State) (w : Wheel) (leg : Leg) (v : Word) :
    (s.writeCmp w leg v).mouseStat = s.mouseStat := by cases leg <;> cases w <;> rfl

@[simp] theorem State.writeCmp_dist (s : State) (w : Wheel) (leg : Leg) (v : Word) :
    (s.writeCmp w leg v).dist = s.dist := by cases leg <;> cases w <;> rfl

@[simp] theorem State.writeCmp_tofFlag (s : State) (w : Wheel) (leg : Leg) (v : Word) :
    (s.writeCmp w leg v).tofFlag = s.tofFlag := by cases leg <;> cases w <;> rfl

@[simp] theorem State.writeCmp_out (s : State) (w : Wheel) (leg : Leg) (v : Word) :
    (s.writeCmp w leg v).out = s.out ++ [.cmpWrite w leg v] := by cases leg <;> cases w <;> rfl

@[simp] theorem State.writeCmp_cfg (s : State) (w : Wheel) (leg : Leg) (v : Word) :
    (s.writeCmp w leg v).cfg = s.cfg := by cases leg <;> cases w <;> rfl

@[simp] theorem State.writeCmp_reply (s : State) (w : Wheel) (leg : Leg) (v : Word) :
    (s.writeCmp w leg v).reply = s.reply := by cases leg <;> cases w <;> rfl

@[simp] theorem State.writeCmp_agenda (s : State) (w : Wheel) (leg : Leg) (v : Word) :
    (s.writeCmp w leg v).agenda = s.agenda := by cases leg <;> cases w <;> rfl

@[simp] theorem State.writeCmp_draws (s : State) (w : Wheel) (leg : Leg) (v : Word) :
    (s.writeCmp w leg v).draws = s.draws := by cases leg <;> cases w <;> rfl

@[simp] theorem State.writeMstat_mouseStat (s : State) (w : Wheel) (a : MotorStatus) :
    (s.writeMstat w a).mouseStat = s.mouseStat := by cases w <;> rfl

@[simp] theorem State.writeMstat_dist (s : State) (w : Wheel) (a : MotorStatus) :
    (s.writeMstat w a).dist = s.dist := by cases w <;> rfl

@[simp] theorem State.writeMstat_tofFlag (s : State) (w : Wheel) (a : MotorStatus) :
    (s.writeMstat w a).tofFlag = s.tofFlag := by cases w <;> rfl

@[simp] theorem State.writeMstat_out (s : State) (w : Wheel) (a : MotorStatus) :
    (s.writeMstat w a).out = s.out := by cases w <;> rfl

@[simp] theorem State.writeMstat_cfg (s : State) (w : Wheel) (a : MotorStatus) :
    (s.writeMstat w a).cfg = s.cfg := by cases w <;> rfl

@[simp] theorem State.writeMstat_reply (s : State) (w : Wheel) (a : MotorStatus) :
    (s.writeMstat w a).reply = s.reply := by cases w <;> rfl

@[simp] theorem State.writeMstat_agenda (s : State) (w : Wheel) (a : MotorStatus) :
    (s.writeMstat w a).agenda = s.agenda := by cases w <;> rfl

@[simp] theorem State.writeMstat_draws (s : State) (w : Wheel) (a : MotorStatus) :
    (s.writeMstat w a).draws = s.draws := by cases w <;> rfl

@[simp] theorem State.writeDuty_mouseStat (s : State) (w : Wheel) (d : Duty) :
    (s.writeDuty w d).mouseStat = s.mouseStat := by cases w <;> rfl

@[simp] theorem State.writeDuty_dist (s : State) (w : Wheel) (d : Duty) :
    (s.writeDuty w d).dist = s.dist := by cases w <;> rfl

@[simp] theorem State.writeDuty_tofFlag (s : State) (w : Wheel) (d : Duty) :
    (s.writeDuty w d).tofFlag = s.tofFlag := by cases w <;> rfl

@[simp] theorem State.writeDuty_out (s : State) (w : Wheel) (d : Duty) :
    (s.writeDuty w d).out = s.out := by cases w <;> rfl

@[simp] theorem State.writeDuty_cfg (s : State) (w : Wheel) (d : Duty) :
    (s.writeDuty w d).cfg = s.cfg := by cases w <;> rfl

@[simp] theorem State.writeDuty_reply (s : State) (w : Wheel) (d : Duty) :
    (s.writeDuty w d).reply = s.reply := by cases w <;> rfl

@[simp] theorem State.writeDuty_agenda (s : State) (w : Wheel) (d : Duty) :
    (s.writeDuty w d).agenda = s.agenda := by cases w <;> rfl

@[simp] theorem State.writeDuty_draws (s : State) (w : Wheel) (d : Duty) :
    (s.writeDuty w d).draws = s.draws := by cases w <;> rfl

@[simp] theorem State.writeDelta_mouseStat (s : State) (w : Wheel) (d : Word) :
    (s.writeDelta w d).mouseStat = s.mouseStat := by cases w <;> rfl

@[simp] theorem State.writeDelta_dist (s : State) (w : Wheel) (d : Word) :
    (s.writeDelta w d).dist = s.dist := by cases w <;> rfl

@[simp] theorem State.writeDelta_tofFlag (s : State) (w : Wheel) (d : Word) :
    (s.writeDelta w d).tofFlag = s.tofFlag := by cases w <;> rfl

@[simp] theorem State.writeDelta_out (s : State) (w : Wheel) (d : Word) :
    (s.writeDelta w d).out = s.out := by cases w <;> rfl

@[simp] theorem State.writeDelta_cfg (s : State) (w : Wheel) (d : Word) :
    (s.writeDelta w d).cfg = s.cfg := by cases w <;> rfl

@[simp] theorem State.writeDelta_reply (s : State) (w : Wheel) (d : Word) :
    (s.writeDelta w d).reply = s.reply := by cases w <;> rfl

@[simp] theorem State.writeDelta_agenda (s : State) (w : Wheel) (d : Word) :
    (s.writeDelta w d).agenda = s.agenda := by cases w <;> rfl

@[simp] theorem State.writeDelta_draws (s : State) (w : Wheel) (d : Word) :
    (s.writeDelta w d).draws = s.draws := by cases w <;> rfl

@[simp] theorem State.writePrev_mouseStat (s : State) (w : Wheel) (t : Word) :
    (s.writePrev w t).mouseStat = s.mouseStat := by cases w <;> rfl

@[simp] theorem State.writePrev_dist (s : State) (w : Wheel) (t : Word) :
    (s.writePrev w t).dist = s.dist := by cases w <;> rfl

@[simp] theorem State.writePrev_tofFlag (s : State) (w : Wheel) (t : Word) :
    (s.writePrev w t).tofFlag = s.tofFlag := by cases w <;> rfl

@[simp] theorem State.writePrev_out (s : State) (w : Wheel) (t : Word) :
    (s.writePrev w t).out = s.out := by cases w <;> rfl

@[simp] theorem State.writePrev_cfg (s : State) (w : Wheel) (t : Word) :
    (s.writePrev w t).cfg = s.cfg := by cases w <;> rfl

@[simp] theorem State.writePrev_reply (s : State) (w : Wheel) (t : Word) :
    (s.writePrev w t).reply = s.reply := by cases w <;> rfl

@[simp] theorem State.writePrev_agenda (s : State) (w : Wheel) (t : Word) :
    (s.writePrev w t).agenda = s.agenda := by cases w <;> rfl

@[simp] theorem State.writePrev_draws (s : State) (w : Wheel) (t : Word) :
    (s.writePrev w t).draws = s.draws := by cases w <;> rfl

@[simp] theorem State.writeCap_mouseStat (s : State) (w : Wheel) (ts : Word) :
    (s.writeCap w ts).mouseStat = s.mouseStat := by cases w <;> rfl

@[simp] theorem State.writeCap_dist (s : State) (w : Wheel) (ts : Word) :
    (s.writeCap w ts).dist = s.dist := by cases w <;> rfl

@[simp] theorem State.writeCap_tofFlag (s : State) (w : Wheel) (ts : Word) :
    (s.writeCap w ts).tofFlag = s.tofFlag := by cases w <;> rfl

@[simp] theorem State.writeCap_out (s : State) (w : Wheel) (ts : Word) :
    (s.writeCap w ts).out = s.out := by cases w <;> rfl

@[simp] theorem State.writeCap_cfg (s : State) (w : Wheel) (ts : Word) :
    (s.writeCap w ts).cfg = s.cfg := by cases w <;> rfl

@[simp] theorem State.writeCap_reply (s : State) (w : Wheel) (ts : Word) :
    (s.writeCap w ts).reply = s.reply := by cases w <;> rfl

@[simp] theorem State.writeCap_agenda (s : State) (w : Wheel) (ts : Word) :
    (s.writeCap w ts).agenda = s.agenda := by cases w <;> rfl

@[simp] theorem State.writeCap_draws (s : State) (w : Wheel) (ts : Word) :
    (s.writeCap w ts).draws = s.draws := by cases w <;> rfl

@[simp] theorem State.writeDist_mouseStat (s : State) (v : Word) :
    (s.writeDist v).mouseStat = s.mouseStat := rfl

@[simp] theorem State.writeDist_dist (s : State) (v : Word) :
    (s.writeDist v).dist = v := rfl

@[simp] theorem State.writeDist_tofFlag (s : State) (v : Word) :
    (s.writeDist v).tofFlag = s.tofFlag := rfl

@[simp] theorem State.writeDist_out (s : State) (v : Word) :
    (s.writeDist v).out = s.out := rfl

@[simp] theorem State.writeDist_cfg (s : State) (v : Word) :
    (s.writeDist v).cfg = s.cfg := rfl

@[simp] theorem State.writeDist_reply (s : State) (v : Word) :
    (s.writeDist v).reply = s.reply := rfl

@[simp] theorem State.writeDist_agenda (s : State) (v : Word) :
    (s.writeDist v).agenda = s.agenda := rfl

@[simp] theorem State.writeDist_draws (s : State) (v : Word) :
    (s.writeDist v).draws = s.draws := rfl

@[simp] theorem State.writeDist_wheel (s : State) (v : Word) (w : Wheel) :
    (s.writeDist v).wheel w = s.wheel w := by cases w <;> rfl

@[simp] theorem State.writeMouse_mouseStat (s : State) (m : MouseStatus) :
    (s.writeMouse m).mouseStat = m := rfl

@[simp] theorem State.writeMouse_dist (s : State) (m : MouseStatus) :
    (s.writeMouse m).dist = s.dist := rfl

@[simp] theorem State.writeMouse_tofFlag (s : State) (m : MouseStatus) :
    (s.writeMouse m).tofFlag = s.tofFlag := rfl

@[simp] theorem State.writeMouse_out (s : State) (m : MouseStatus) :
    (s.writeMouse m).out = s.out := rfl

@[simp] theorem State.writeMouse_cfg (s : State) (m : MouseStatus) :
    (s.writeMouse m).cfg = s.cfg := rfl

@[simp] theorem State.writeMouse_reply (s : State) (m : MouseStatus) :
    (s.writeMouse m).reply = s.reply := rfl

@[simp] theorem State.writeMouse_agenda (s : State) (m : MouseStatus) :
    (s.writeMouse m).agenda = s.agenda := rfl

@[simp] theorem State.writeMouse_draws (s : State) (m : MouseStatus) :
    (s.writeMouse m).draws = s.draws := rfl

@[simp] theorem State.writeMouse_wheel (s : State) (m : MouseStatus) (w : Wheel) :
    (s.writeMouse m).wheel w = s.wheel w := by cases w <;> rfl

@[simp] theorem State.giveReply_mouseStat (s : State) (r : Reply) :
    (s.giveReply r).mouseStat = s.mouseStat := rfl

@[simp] theorem State.giveReply_dist (s : State) (r : Reply) :
    (s.giveReply r).dist = s.dist := rfl

@[simp] theorem State.giveReply_tofFlag (s : State) (r : Reply) :
    (s.giveReply r).tofFlag = s.tofFlag := rfl

@[simp] theorem State.giveReply_out (s : State) (r : Reply) :
    (s.giveReply r).out = s.out := rfl

@[simp] theorem State.giveReply_cfg (s : State) (r : Reply) :
    (s.giveReply r).cfg = s.cfg := rfl

@[simp] theorem State.giveReply_reply (s : State) (r : Reply) :
    (s.giveReply r).reply = some r := rfl

@[simp] theorem State.giveReply_agenda (s : State) (r : Reply) :
    (s.giveReply r).agenda = s.agenda := rfl

@[simp] theorem State.giveReply_draws (s : State) (r : Reply) :
    (s.giveReply r).draws = s.draws := rfl

@[simp] theorem State.giveReply_wheel (s : State) (r : Reply) (w : Wheel) :
    (s.giveReply r).wheel w = s.wheel w := by cases w <;> rfl

@[simp] theorem State.writeMstat_wheel (s : State) (w w' : Wheel) (a : MotorStatus) :
    (s.writeMstat w a).wheel w' = if w' = w then { s.wheel w with mstat := a } else s.wheel w' := by
  cases w <;> cases w' <;> rfl

@[simp] theorem State.writeDuty_wheel (s : State) (w w' : Wheel) (d : Duty) :
    (s.writeDuty w d).wheel w' = if w' = w then { s.wheel w with duty := d } else s.wheel w' := by
  cases w <;> cases w' <;> rfl

@[simp] theorem State.writeDelta_wheel (s : State) (w w' : Wheel) (d : Word) :
    (s.writeDelta w d).wheel w' = if w' = w then { s.wheel w with delta := d } else s.wheel w' := by
  cases w <;> cases w' <;> rfl

@[simp] theorem State.writePrev_wheel (s : State) (w w' : Wheel) (t : Word) :
    (s.writePrev w t).wheel w' = if w' = w then { s.wheel w with prev := t } else s.wheel w' := by
  cases w <;> cases w' <;> rfl

@[simp] theorem State.writeCap_wheel (s : State) (w w' : Wheel) (ts : Word) :
    (s.writeCap w ts).wheel w' = if w' = w then { s.wheel w with cap := ts } else s.wheel w' := by
  cases w <;> cases w' <;> rfl

@[simp] theorem State.writeCmp_wheel (s : State) (w w' : Wheel) (leg : Leg) (v : Word) :
    (s.writeCmp w leg v).wheel w' =
      if w' = w then
        { s.wheel w with
          cmpA := if leg = .a then v else (s.wheel w).cmpA
          cmpB := if leg = .b then v else (s.wheel w).cmpB }
      else s.wheel w' := by
  cases w <;> cases w' <;> cases leg <;> rfl

/-- Two states are equal when all their fields are. -/
theorem State.ext_fields {s t : State} (hl : s.left = t.left) (hr : s.right = t.right)
    (hm : s.mouseStat = t.mouseStat) (hd : s.dist = t.dist) (hf : s.tofFlag = t.tofFlag) (ho : s.out = t.out)
    (hc : s.cfg = t.cfg) (hp : s.reply = t.reply) (ha : s.agenda = t.agenda) (hn : s.draws = t.draws) : s = t := by
  cases s; cases t; simp_all

end Sys2Proof.Machine
end

