-- ==== Sys2Proof/Laws/Ops.lean ====
section
/-! SUPPORT. One lemma per shared operation that says everything it does; the meanings' proofs cite these. -/

namespace Sys2Proof.Machine

/-! ## Numbers -/

theorem dutyval_toNat (c : Config) (d : Duty) :
    (dutyval c d).toNat = min d.toNat 100 * c.raw.pwmPeriodTicks / 100 := by
  have hl := c.legal
  have h : min d.toNat 100 * c.raw.pwmPeriodTicks / 100 ≤ c.raw.pwmPeriodTicks := by
    calc min d.toNat 100 * c.raw.pwmPeriodTicks / 100
        ≤ 100 * c.raw.pwmPeriodTicks / 100 :=
          Nat.div_le_div_right (Nat.mul_le_mul_right _ (Nat.min_le_right _ _))
      _ = c.raw.pwmPeriodTicks := Nat.mul_div_cancel_left _ (by decide)
  simp only [dutyval, BitVec.toNat_ofNat]
  exact Nat.mod_eq_of_lt (by omega)

theorem offCompare_toNat (c : Config) : (offCompare c).toNat = c.raw.offValue := by
  have hl := c.legal
  simp only [offCompare, BitVec.toNat_ofNat]
  exact Nat.mod_eq_of_lt (by omega)

theorem clampInt_bounds (c : Config) (x : Int) :
    (c.raw.pwMin : Int) ≤ clampInt c x ∧ clampInt c x ≤ (c.raw.pwMax : Int) := by
  have hl := c.legal
  unfold clampInt
  split
  · omega
  · split <;> omega

theorem clampInt_eq_nearest (c : Config) (x : Int) : clampInt c x = nearest c x := by
  have hl := c.legal
  unfold clampInt nearest
  split
  · omega
  · split <;> omega

theorem clamp_toNat (c : Config) (x : Int) : ((clamp c x).toNat : Int) = nearest c x := by
  have hl := c.legal
  have hb := clampInt_bounds c x
  rw [← clampInt_eq_nearest]
  simp only [clamp, BitVec.toNat_ofNat]
  rw [Nat.mod_eq_of_lt (by omega)]
  omega

/-- A percentage that is at most 100 is not saturated. -/
theorem dutyval_toNat_of_le (c : Config) (d : Duty) (h : d.toNat ≤ 100) :
    (dutyval c d).toNat = d.toNat * c.raw.pwmPeriodTicks / 100 := by
  rw [dutyval_toNat, Nat.min_eq_left h]

/-! ## The driver -/

theorem legValues_eq (a : MotorStatus) (on off : Word) :
    legValues on off a = (onLegA a on off, onLegB a on off) := by cases a <;> rfl

/-- Everything `drive` does to the left wheel. -/
theorem drive_left (a : MotorStatus) (s : State) :
    drive .left a s =
      { s with
        left := s.left.driven a (dutyval s.cfg s.left.duty) (offCompare s.cfg)
        out := s.out ++ driveRecords .left a (dutyval s.cfg s.left.duty) (offCompare s.cfg) } := by
  simp [drive, legValues_eq, State.writeCmp, State.writeMstat, State.setWheel, State.emit, WheelUnit.driven,
    driveRecords]

/-- Everything `drive` does to the right wheel. -/
theorem drive_right (a : MotorStatus) (s : State) :
    drive .right a s =
      { s with
        right := s.right.driven a (dutyval s.cfg s.right.duty) (offCompare s.cfg)
        out := s.out ++ driveRecords .right a (dutyval s.cfg s.right.duty) (offCompare s.cfg) } := by
  simp [drive, legValues_eq, State.writeCmp, State.writeMstat, State.setWheel, State.emit, WheelUnit.driven,
    driveRecords]

/-- Everything the dispatcher does. -/
theorem dispatch_eq (m : MouseStatus) (s : State) :
    dispatch m s =
      { s with
        left := if s.left.mstat = (target m).1 then s.left
          else s.left.driven (target m).1 (dutyval s.cfg s.left.duty) (offCompare s.cfg)
        right := if s.right.mstat = (target m).2 then s.right
          else s.right.driven (target m).2 (dutyval s.cfg s.right.duty) (offCompare s.cfg)
        mouseStat := m
        out := s.out
          ++ (if s.left.mstat = (target m).1 then []
            else driveRecords .left (target m).1 (dutyval s.cfg s.left.duty) (offCompare s.cfg))
          ++ (if s.right.mstat = (target m).2 then []
            else driveRecords .right (target m).2 (dutyval s.cfg s.right.duty) (offCompare s.cfg)) } := by
  by_cases hl : s.left.mstat = (target m).1 <;> by_cases hr : s.right.mstat = (target m).2 <;>
    by_cases hm : s.mouseStat = m <;>
    (simp [dispatch, driveIfChanged, noteMouse, drive_left, drive_right, State.writeMouse, hl, hr, hm]; try (cases s; simp_all))

/-! ## Flags and service steps -/

theorem clrBit_one_bit (x : BitVec 1) : clrBit x 0 = 0 := by
  revert x; decide

theorem flag_cases (x : BitVec 1) : x = 0 ∨ x = 1 := by
  revert x; decide

@[simp] theorem State.enabled_iff (s : State) (src : Source) : s.enabled src = true ↔ s.flag src = 1 := by
  simp [State.enabled]

/-- What the flag clear does: two records, and the flag at 0. -/
theorem State.clearFlag_eq (s : State) (src : Source) :
    s.clearFlag src =
      ({ s with out := s.out ++ [OutRecord.flagRead src, OutRecord.flagWrite0 src] } : State).writeFlag src 0 := by
  cases src <;> simp [State.clearFlag, State.emit, clrBit_one_bit]

/-- A service step runs exactly when its flag is 1. -/
theorem serve_enabled {src : Source} {body : State → State} {s : State} (h : s.flag src = 1) :
    serve src body s = .next ((body s).clearFlag src) := by simp [serve, h]

theorem serve_not_enabled {src : Source} {body : State → State} {s : State} (h : s.flag src = 0) :
    serve src body s = .refused (.serviceNotEnabled src) := by simp [serve, h]

/-- If a service step answers a next state, its flag was 1 and the state is the served one. -/
theorem serve_next {src : Source} {body : State → State} {s t : State} (h : serve src body s = .next t) :
    s.flag src = 1 ∧ t = (body s).clearFlag src := by
  rcases flag_cases (s.flag src) with h0 | h1
  · rw [serve_not_enabled h0] at h; cases h
  · rw [serve_enabled h1] at h; cases h; exact ⟨h1, rfl⟩

/-! ## Capture and balance -/

/-- The value of `DIST` after one capture service. -/
def distAfter (d : Word) : Word := if d.toNat > 0 then d - 1 else d

theorem distAfter_toNat (d : Word) : (distAfter d).toNat = d.toNat - 1 := by
  unfold distAfter
  split
  · bv_omega
  · omega

/-- Everything a served `CAPSVC.L` does. -/
theorem captureServed_left (s : State) :
    (captureBody .left s).clearFlag .capL =
      { s with
        left := { s.left with delta := s.left.cap - s.left.prev, prev := s.left.cap, capFlag := 0 }
        dist := distAfter s.dist
        out := s.out ++ [.capRead .left, .flagRead .capL, .flagWrite0 .capL] } := by
  rw [State.clearFlag_eq]
  unfold captureBody countDown distAfter
  simp only [State.writePrev_dist, State.writeDelta_dist, State.emit_dist]
  split <;>
    simp [State.writeDelta, State.writePrev, State.writeDist, State.setWheel, State.emit, State.writeFlag]

/-- Everything a served `CAPSVC.R` does. -/
theorem captureServed_right (s : State) :
    (captureBody .right s).clearFlag .capR =
      { s with
        right := { s.right with delta := s.right.cap - s.right.prev, prev := s.right.cap, capFlag := 0 }
        dist := distAfter s.dist
        out := s.out ++ [.capRead .right, .flagRead .capR, .flagWrite0 .capR] } := by
  rw [State.clearFlag_eq]
  unfold captureBody countDown distAfter
  simp only [State.writePrev_dist, State.writeDelta_dist, State.emit_dist]
  split <;>
    simp [State.writeDelta, State.writePrev, State.writeDist, State.setWheel, State.emit, State.writeFlag]

theorem gateOpen_iff (s : State) : gateOpen s = true ↔ s.left.mstat ≠ .stop ∧ s.right.mstat ≠ .stop := by
  simp [gateOpen]

theorem corrected_eq_wanted (s : State) :
    corrected s = wanted s.left.delta.toNat s.right.delta.toNat s.left.duty.toNat s.right.duty.toNat := rfl

/-- The wheel's registers after a correction to duty cycle `d`. -/
def WheelUnit.corrected (u : WheelUnit) (c : Config) (d : Duty) : WheelUnit :=
  { u with
    duty := d
    cmpA := onLegA u.mstat (dutyval c d) (offCompare c)
    cmpB := onLegB u.mstat (dutyval c d) (offCompare c) }

/-- Everything a served `CTLSVC` with an open gate does. -/
theorem balanceServed_open (s : State) (h : gateOpen s = true) :
    (balanceBody s).clearFlag .tof =
      { s with
        left := s.left.corrected s.cfg (clamp s.cfg (Machine.corrected s).1)
        right := s.right.corrected s.cfg (clamp s.cfg (Machine.corrected s).2)
        tofFlag := 0
        out := s.out
          ++ driveRecords .left s.left.mstat (dutyval s.cfg (clamp s.cfg (Machine.corrected s).1)) (offCompare s.cfg)
          ++ driveRecords .right s.right.mstat (dutyval s.cfg (clamp s.cfg (Machine.corrected s).2)) (offCompare s.cfg)
          ++ [.flagRead .tof, .flagWrite0 .tof] } := by
  rw [State.clearFlag_eq]
  simp [balanceBody, h, reapply, drive_left, drive_right, State.writeDuty, State.setWheel, State.writeFlag,
    WheelUnit.driven, WheelUnit.corrected]

/-- Everything a served `CTLSVC` with a closed gate does. -/
theorem balanceServed_closed (s : State) (h : gateOpen s = false) :
    (balanceBody s).clearFlag .tof =
      { s with tofFlag := 0, out := s.out ++ [.flagRead .tof, .flagWrite0 .tof] } := by
  rw [State.clearFlag_eq]
  simp [balanceBody, h, State.writeFlag]

end Sys2Proof.Machine
end

