-- ==== Sys2Proof/Laws/Exec.lean ====
section
/-! SUPPORT. What an operation can do when it answers a next state: one case per kind of operation, each with the whole
next state. Proofs about all operations are case analyses over `Effect`, not over `exec`. -/

namespace Sys2Proof.Machine

/-- The ways in which operation `i` takes state `s` to state `t`. -/
inductive Effect (i : Instr) (s t : State) : Prop where
  | read (addr : Addr) (v : Word) (hi : i = .rd addr) (hv : regRead addr s = some v)
      (ht : t = { s with reply := some (.word v) })
  | load (v : Word) (hi : i = .lddist v) (ht : t = { s with dist := v })
  | driveL (a : MotorStatus) (hi : i = driveInstr .left a)
      (ht : t = { s with
        left := s.left.driven a (dutyval s.cfg s.left.duty) (offCompare s.cfg)
        out := s.out ++ driveRecords .left a (dutyval s.cfg s.left.duty) (offCompare s.cfg) })
  | driveR (a : MotorStatus) (hi : i = driveInstr .right a)
      (ht : t = { s with
        right := s.right.driven a (dutyval s.cfg s.right.duty) (offCompare s.cfg)
        out := s.out ++ driveRecords .right a (dutyval s.cfg s.right.duty) (offCompare s.cfg) })
  | mouse (m : MouseStatus) (hi : i = mouseInstr m) (ht : t = dispatch m s)
  | edgeL (ts : Word) (hi : i = .edgeL ts) (ht : t = { s with left := { s.left with cap := ts, capFlag := 1 } })
  | edgeR (ts : Word) (hi : i = .edgeR ts) (ht : t = { s with right := { s.right with cap := ts, capFlag := 1 } })
  | overflow (hi : i = .tof) (ht : t = { s with tofFlag := 1 })
  | captureL (hi : i = .capsvcL) (hf : s.left.capFlag = 1)
      (ht : t = { s with
        left := { s.left with delta := s.left.cap - s.left.prev, prev := s.left.cap, capFlag := 0 }
        dist := distAfter s.dist
        out := s.out ++ [.capRead .left, .flagRead .capL, .flagWrite0 .capL] })
  | captureR (hi : i = .capsvcR) (hf : s.right.capFlag = 1)
      (ht : t = { s with
        right := { s.right with delta := s.right.cap - s.right.prev, prev := s.right.cap, capFlag := 0 }
        dist := distAfter s.dist
        out := s.out ++ [.capRead .right, .flagRead .capR, .flagWrite0 .capR] })
  | balanceClosed (hi : i = .ctlsvc) (hf : s.tofFlag = 1) (hg : gateOpen s = false)
      (ht : t = { s with tofFlag := 0, out := s.out ++ [.flagRead .tof, .flagWrite0 .tof] })
  | balanceOpen (hi : i = .ctlsvc) (hf : s.tofFlag = 1) (hg : gateOpen s = true)
      (ht : t = { s with
        left := s.left.corrected s.cfg (clamp s.cfg (Machine.corrected s).1)
        right := s.right.corrected s.cfg (clamp s.cfg (Machine.corrected s).2)
        tofFlag := 0
        out := s.out
          ++ driveRecords .left s.left.mstat (dutyval s.cfg (clamp s.cfg (Machine.corrected s).1)) (offCompare s.cfg)
          ++ driveRecords .right s.right.mstat (dutyval s.cfg (clamp s.cfg (Machine.corrected s).2)) (offCompare s.cfg)
          ++ [.flagRead .tof, .flagWrite0 .tof] })
  | setBit (n : Nat) (v : BitVec n) (k : Nat) (hi : i = .setbit n v k) (hk : k < n)
      (ht : t = { s with reply := some (.bits n (Machine.setBit v k)) })
  | clrBit (n : Nat) (v : BitVec n) (k : Nat) (hi : i = .clrbit n v k) (hk : k < n)
      (ht : t = { s with reply := some (.bits n (Machine.clrBit v k)) })

/-- Whatever answers a next state has one of these effects. -/
theorem effect_of_exec {i : Instr} {s t : State} (h : exec i s = .next t) : Effect i s t := by
  cases i with
  | rd addr =>
    simp only [exec, execRd] at h
    cases hr : regRead addr s with
    | none => rw [hr] at h; cases h
    | some v => rw [hr] at h; cases h; exact .read addr v rfl hr rfl
  | lddist v => cases h; exact .load v rfl rfl
  | driveLFwd => cases h; exact .driveL .fwd rfl (drive_left ..)
  | driveLRev => cases h; exact .driveL .rev rfl (drive_left ..)
  | driveLStop => cases h; exact .driveL .stop rfl (drive_left ..)
  | driveRFwd => cases h; exact .driveR .fwd rfl (drive_right ..)
  | driveRRev => cases h; exact .driveR .rev rfl (drive_right ..)
  | driveRStop => cases h; exact .driveR .stop rfl (drive_right ..)
  | mouseFwd => cases h; exact .mouse .fwd rfl rfl
  | mouseRev => cases h; exact .mouse .rev rfl rfl
  | mouseStop => cases h; exact .mouse .stop rfl rfl
  | mouseTl => cases h; exact .mouse .turnLeft rfl rfl
  | mouseTr => cases h; exact .mouse .turnRight rfl rfl
  | mouseTa => cases h; exact .mouse .turnAround rfl rfl
  | edgeL ts => cases h; exact .edgeL ts rfl rfl
  | edgeR ts => cases h; exact .edgeR ts rfl rfl
  | tof => cases h; exact .overflow rfl rfl
  | capsvcL => exact .captureL rfl (serve_next h).1 ((serve_next h).2.trans (captureServed_left s))
  | capsvcR => exact .captureR rfl (serve_next h).1 ((serve_next h).2.trans (captureServed_right s))
  | ctlsvc =>
    cases hg : gateOpen s with
    | false => exact .balanceClosed rfl (serve_next h).1 hg ((serve_next h).2.trans (balanceServed_closed s hg))
    | true => exact .balanceOpen rfl (serve_next h).1 hg ((serve_next h).2.trans (balanceServed_open s hg))
  | setbit n v k =>
    simp only [exec, execSetbit] at h
    split at h
    · cases h; exact .setBit n v k rfl ‹_› rfl
    · cases h
  | clrbit n v k =>
    simp only [exec, execClrbit] at h
    split at h
    · cases h; exact .clrBit n v k rfl ‹_› rfl
    · cases h

/-- The first operation of a run. -/
theorem execAll_cons {i : Instr} {ops : List Instr} {s t : State} (h : exec i s = .next t) :
    execAll (i :: ops) s = execAll ops t := by simp only [execAll, h]

theorem execAll_cons_next {i : Instr} {ops : List Instr} {s u : State} (h : execAll (i :: ops) s = .next u) :
    ∃ t, exec i s = .next t ∧ execAll ops t = .next u := by
  simp only [execAll] at h
  cases hi : exec i s with
  | next t => rw [hi] at h; exact ⟨t, rfl, h⟩
  | fault r => rw [hi] at h; cases h
  | refused r => rw [hi] at h; cases h

end Sys2Proof.Machine
end

