-- ==== Sys2Proof/Laws/PerInstr.lean ====
section
/-! SUPPORT. A statement about each operation as syntax: the port its input arrives on is that of its format
(30_encoding.md rules R90 to R94, R99). -/

namespace Sys2Proof

/-- The formats of 30_encoding.md. -/
inductive Format where
  | h
  | hc
  | e
  | s
  | p
deriving DecidableEq, Repr

/-- The format column of rule R97. -/
def formatOf : Instr → Format
  | .rd _ => .h
  | .lddist _ => .h
  | .driveLFwd => .hc
  | .driveLRev => .hc
  | .driveLStop => .hc
  | .driveRFwd => .hc
  | .driveRRev => .hc
  | .driveRStop => .hc
  | .mouseFwd => .hc
  | .mouseRev => .hc
  | .mouseStop => .hc
  | .mouseTl => .hc
  | .mouseTr => .hc
  | .mouseTa => .hc
  | .edgeL _ => .e
  | .edgeR _ => .e
  | .tof => .e
  | .capsvcL => .s
  | .capsvcR => .s
  | .ctlsvc => .s
  | .setbit _ _ _ => .p
  | .clrbit _ _ _ => .p

/-- The input of an operation arrives where its format says; format P has none. -/
def Laws.PortOfFormat.Statement (i : Instr) : Prop :=
  match formatOf i with
  | .h => ∃ w, encode i = some (.host w)
  | .hc => ∃ w, encode i = some (.host w)
  | .e => ∃ w, encode i = some (.event w)
  | .s => ∃ src, encode i = some (.service src)
  | .p => encode i = none

theorem Laws.PortOfFormat.rd (addr : Addr) : Statement (.rd addr) := ⟨_, rfl⟩
theorem Laws.PortOfFormat.lddist (v : Word) : Statement (.lddist v) := ⟨_, rfl⟩
theorem Laws.PortOfFormat.driveLFwd : Statement .driveLFwd := ⟨_, rfl⟩
theorem Laws.PortOfFormat.driveLRev : Statement .driveLRev := ⟨_, rfl⟩
theorem Laws.PortOfFormat.driveLStop : Statement .driveLStop := ⟨_, rfl⟩
theorem Laws.PortOfFormat.driveRFwd : Statement .driveRFwd := ⟨_, rfl⟩
theorem Laws.PortOfFormat.driveRRev : Statement .driveRRev := ⟨_, rfl⟩
theorem Laws.PortOfFormat.driveRStop : Statement .driveRStop := ⟨_, rfl⟩
theorem Laws.PortOfFormat.mouseFwd : Statement .mouseFwd := ⟨_, rfl⟩
theorem Laws.PortOfFormat.mouseRev : Statement .mouseRev := ⟨_, rfl⟩
theorem Laws.PortOfFormat.mouseStop : Statement .mouseStop := ⟨_, rfl⟩
theorem Laws.PortOfFormat.mouseTl : Statement .mouseTl := ⟨_, rfl⟩
theorem Laws.PortOfFormat.mouseTr : Statement .mouseTr := ⟨_, rfl⟩
theorem Laws.PortOfFormat.mouseTa : Statement .mouseTa := ⟨_, rfl⟩
theorem Laws.PortOfFormat.edgeL (ts : Word) : Statement (.edgeL ts) := ⟨_, rfl⟩
theorem Laws.PortOfFormat.edgeR (ts : Word) : Statement (.edgeR ts) := ⟨_, rfl⟩
theorem Laws.PortOfFormat.tof : Statement .tof := ⟨_, rfl⟩
theorem Laws.PortOfFormat.capsvcL : Statement .capsvcL := ⟨_, rfl⟩
theorem Laws.PortOfFormat.capsvcR : Statement .capsvcR := ⟨_, rfl⟩
theorem Laws.PortOfFormat.ctlsvc : Statement .ctlsvc := ⟨_, rfl⟩
theorem Laws.PortOfFormat.setbit (n : Nat) (v : BitVec n) (i : Nat) : Statement (.setbit n v i) := rfl
theorem Laws.PortOfFormat.clrbit (n : Nat) (v : BitVec n) (i : Nat) : Statement (.clrbit n v i) := rfl

end Sys2Proof
end

