-- ==== Sys2Proof/Laws/Step.lean ====
section
/-! SUPPORT. What comes next, case by case, and what a step is in each case. -/

namespace Sys2Proof.Machine

/-- The first input of a non-empty agenda comes next. -/
theorem nextInput_agenda {s : State} {inp : Input} {rest : List Input} (h : s.agenda = inp :: rest) :
    s.nextInput = some (inp, { s with agenda := rest }) := by simp [State.nextInput, h]

theorem mem_pendingSources (s : State) (src : Source) : src ∈ s.pendingSources ↔ s.flag src = 1 := by
  cases src <;> simp [State.pendingSources]

/-- With an empty agenda, either nothing is pending and nothing comes next, or a pending source's service step does,
in a state that differs at most in its count of draws. -/
theorem nextInput_unattended {s : State} (h : s.agenda = []) :
    ((∀ src, s.flag src ≠ 1) ∧ s.nextInput = none) ∨
    (∃ src n, s.flag src = 1 ∧ s.nextInput = some (.service src, { s with draws := n })) := by
  have hm := mem_pendingSources s
  cases hp : s.pendingSources with
  | nil =>
    refine .inl ⟨fun src hs => ?_, by simp [State.nextInput, h, hp]⟩
    have := (hm src).2 hs
    rw [hp] at this; cases this
  | cons a l =>
    cases l with
    | nil =>
      refine .inr ⟨a, s.draws, (hm a).1 (by simp [hp]), ?_⟩
      change s.nextInput = some (.service a, s)
      simp only [State.nextInput, h, hp]
    | cons b l =>
      refine .inr ⟨(a :: b :: l).getD (Config.schedule s.draws % ((b :: l).length + 1)) a, s.draws + 1,
        (hm _).1 ?_, by simp only [State.nextInput, h, hp]⟩
      have hlt : Config.schedule s.draws % ((b :: l).length + 1) < (a :: b :: l).length :=
        Nat.mod_lt _ (Nat.succ_pos _)
      rw [hp, List.getD_eq_getElem (a :: b :: l) a hlt]
      exact List.getElem_mem _

/-- A step, given what comes next. -/
theorem step_of_nextInput {s t : State} {inp : Input} (h : s.nextInput = some (inp, t)) :
    step s = match decode inp with
      | .ok i => exec i t
      | .error e => .refused (.undecodable e) := by
  cases hd : decode inp <;> simp only [step, h, hd]

theorem step_idle {s : State} (h : s.nextInput = none) : step s = .next s := by simp only [step, h]

/-- If a step answers a next state, the block was idle, or an operation ran in a state that differs from the given one
at most in the agenda and the count of draws. -/
theorem step_next {s t : State} (h : step s = .next t) :
    t = s ∨ ∃ i l n, exec i { s with agenda := l, draws := n } = .next t := by
  cases ha : s.agenda with
  | cons inp rest =>
    rw [step_of_nextInput (nextInput_agenda ha)] at h
    cases hd : decode inp with
    | ok i => rw [hd] at h; exact .inr ⟨i, rest, s.draws, h⟩
    | error e => rw [hd] at h; cases h
  | nil =>
    rcases nextInput_unattended ha with ⟨-, hn⟩ | ⟨src, n, -, hn⟩
    · rw [step_idle hn] at h; cases h; exact .inl rfl
    · rw [step_of_nextInput hn] at h
      refine .inr ⟨serviceInstr src, [], n, ?_⟩
      have : ({ s with agenda := [], draws := n } : State) = { s with draws := n } := by
        cases s; simp_all
      rw [this]
      exact h

end Sys2Proof.Machine
end

