-- ==== Sys2Proof/Tests/Slice0.lean ====
section
/-! SUPPORT. Tests of the model: the words and vectors are those of spec/95_test_vectors.md and of the rules' own examples;
each `witness_` theorem shows that the hypotheses of the statement it is named after can be met. -/

namespace Sys2Proof.Machine.Test

/-- The configuration of 95_test_vectors.md: the defaults of rule R7, and two OPEN parameters with the vectors' values. -/
def vec : Config :=
  ⟨{ pwmPeriodTicks := 1000, defaultSpeed := 50, busClockMHz := 8, pwmPeriodMs := 1 }, by decide⟩

/-- The same with the wider bounds of D-S16 and D-S17. -/
def wide : Config :=
  ⟨{ vec.raw with pwMin := 0, pwMax := 100 }, by decide⟩

/-- The reset state of the vectors. -/
def base : State := State.resetOf vec

/-- Both wheels running with given actions, deltas and duty cycles, and an overflow pending. -/
def running (l r : MotorStatus) (dl dr : Word) (ul ur : Duty) : State :=
  { base with
    left := { base.left with mstat := l, delta := dl, duty := ul }
    right := { base.right with mstat := r, delta := dr, duty := ur }
    tofFlag := 1 }

/-- A value of the next state, if there is one. -/
def peek {α : Type} (o : Host.Outcome State Fault Refusal) (f : State → α) : Option α :=
  match o with
  | .next s => some (f s)
  | .fault _ => none
  | .refused _ => none

/-- The name under which a step is refused, if it is. -/
def why (o : Host.Outcome State Fault Refusal) : Option Refusal :=
  match o with
  | .next _ => none
  | .fault _ => none
  | .refused r => some r

/-- Both wheels' compare registers. -/
def cmps (s : State) : List Word := [s.left.cmpA, s.left.cmpB, s.right.cmpA, s.right.cmpB]

/-! ## Well-formedness: an ill-formed term for each check -/

theorem test_rd_7_ill_formed : ¬ (Instr.rd 0x7#4).WellFormed := by decide
theorem test_rd_E_ill_formed : ¬ (Instr.rd 0xE#4).WellFormed := by decide
theorem test_rd_F_ill_formed : ¬ (Instr.rd 0xF#4).WellFormed := by decide
theorem test_setbit_ill_formed : ¬ (Instr.setbit 8 0x00#8 8).WellFormed := by decide
theorem test_clrbit_ill_formed : ¬ (Instr.clrbit 8 0xFF#8 8).WellFormed := by decide

/-! ## Decoding: one word per operation, written out from rules R90 to R93 and R97 -/

theorem test_decode_rd : decode (.host 0b0_0001_0000000000000000#21) = .ok (.rd 0x1#4) := by decide
theorem test_decode_lddist : decode (.host 0b1_0110_0000000001100100#21) = .ok (.lddist 100#16) := by decide
theorem test_decode_drive_left :
    decode (.host 0b1_0000_00000000_0001_0_0_00#21) = .ok .driveLFwd ∧
      decode (.host 0b1_0000_00000000_0001_0_0_01#21) = .ok .driveLRev ∧
      decode (.host 0b1_0000_00000000_0001_0_0_10#21) = .ok .driveLStop := by decide
theorem test_decode_drive_right :
    decode (.host 0b1_0000_00000000_0001_0_1_00#21) = .ok .driveRFwd ∧
      decode (.host 0b1_0000_00000000_0001_0_1_01#21) = .ok .driveRRev ∧
      decode (.host 0b1_0000_00000000_0001_0_1_10#21) = .ok .driveRStop := by decide
theorem test_decode_mouse :
    decode (.host 0b1_0000_00000000_0010_0_000#21) = .ok .mouseFwd ∧
      decode (.host 0b1_0000_00000000_0010_0_001#21) = .ok .mouseRev ∧
      decode (.host 0b1_0000_00000000_0010_0_010#21) = .ok .mouseStop ∧
      decode (.host 0b1_0000_00000000_0010_0_011#21) = .ok .mouseTl ∧
      decode (.host 0b1_0000_00000000_0010_0_100#21) = .ok .mouseTr ∧
      decode (.host 0b1_0000_00000000_0010_0_101#21) = .ok .mouseTa := by decide
theorem test_decode_events :
    decode (.event 0b00_0001000000000000#18) = .ok (.edgeL 0x1000#16) ∧
      decode (.event 0b01_0000000110000000#18) = .ok (.edgeR 0x0180#16) ∧
      decode (.event 0b10_0000000000000000#18) = .ok .tof := by decide
theorem test_decode_services :
    decode (.service .capL) = .ok .capsvcL ∧ decode (.service .capR) = .ok .capsvcR ∧
      decode (.service .tof) = .ok .ctlsvc := by decide
/-- The table's own widths tell the port; whole bytes do not. -/
theorem test_table_words :
    decodeTableWord 21 0x010000 = some (.rd 0x1#4) ∧ decodeTableWord 18 0x10180 = some (.edgeR 0x0180#16) ∧
      decodeTableWord 24 0x160064 = some (.lddist 100#16) ∧ decodeTableWord 24 0x20000 = some .tof ∧
      decodeTableWord 24 0x0D0000 = some (.rd 0xD#4) ∧ decodeTableWord 0 2 = some .ctlsvc := by decide
theorem test_render : render .driveRStop = "DRIVE R, STOP" ∧ render (.lddist 100#16) = "LDDIST 100" := by decide

/-! ## The vectors of 95_test_vectors.md, one step each -/

/-- D-H1, D-H2. -/
theorem test_rd_status : peek (exec (.rd 0x1#4) base) State.reply = some (some (.word 0x002A#16)) := by decide
theorem test_rd_duty : peek (exec (.rd 0x3#4) base) State.reply = some (some (.word 0x0032#16)) := by decide
/-- D-H7. -/
theorem test_rd_reserved : why (exec (.rd 0xE#4) base) = some (.notReadable 0xE#4) := by decide
/-- R213: after `MOUSE TL` with an overflow pending. -/
theorem test_status_word :
    State.statusWord { running .stop .fwd 0 0 50 50 with mouseStat := .turnLeft } = 0x0432#16 := by decide
/-- D-H5. -/
theorem test_lddist : peek (exec (.lddist 100#16) base) State.dist = some 100#16 := by decide
/-- D-D1 to D-D6. -/
theorem test_driveLFwd : peek (exec .driveLFwd base) (fun s => (cmps s, s.left.mstat)) =
    some ([500, 1000, 1000, 1000], .fwd) := by decide
theorem test_driveLRev : peek (exec .driveLRev base) (fun s => (cmps s, s.left.mstat)) =
    some ([1000, 500, 1000, 1000], .rev) := by decide
theorem test_driveLStop : peek (exec .driveLStop base) (fun s => (cmps s, s.out)) =
    some ([1000, 1000, 1000, 1000], [.cmpWrite .left .a 1000, .cmpWrite .left .b 1000]) := by decide
theorem test_driveRFwd : peek (exec .driveRFwd base) (fun s => (cmps s, s.right.mstat)) =
    some ([1000, 1000, 500, 1000], .fwd) := by decide
theorem test_driveRRev : peek (exec .driveRRev base) (fun s => (cmps s, s.right.mstat)) =
    some ([1000, 1000, 1000, 500], .rev) := by decide
theorem test_driveRStop : peek (exec .driveRStop base) (fun s => (cmps s, s.out)) =
    some ([1000, 1000, 1000, 1000], [.cmpWrite .right .a 1000, .cmpWrite .right .b 1000]) := by decide
/-- D-V9, D-V14: an exact product and the saturation. -/
theorem test_dutyval_exact :
    dutyval ⟨{ vec.raw with pwmPeriodTicks := 40000, offValue := 40000 }, by decide⟩ 90 = 36000#16 := by decide
theorem test_dutyval_saturates : dutyval vec 101 = 1000#16 := by decide
/-- V9. -/
theorem test_clamp : [92, 90, 89, 11, 10, 8, -1].map (clamp vec) = [90, 90, 89, 11, 10, 10, 10] := by decide
/-- D-M1 to D-M6: `STATUS` after, from reset. -/
theorem test_mouseFwd : peek (exec .mouseFwd base) (fun s => (s.statusWord, s.out.length)) = some (0x0000#16, 4) := by
  decide
theorem test_mouseRev : peek (exec .mouseRev base) (fun s => (s.statusWord, cmps s)) =
    some (0x0015#16, [1000, 500, 1000, 500]) := by decide
theorem test_mouseStop : peek (exec .mouseStop base) (fun s => (s.statusWord, s.out)) = some (0x002A#16, []) := by
  decide
theorem test_mouseTl : peek (exec .mouseTl base) (fun s => (s.statusWord, s.out)) =
    some (0x0032#16, [.cmpWrite .right .a 500, .cmpWrite .right .b 1000]) := by decide
theorem test_mouseTr : peek (exec .mouseTr base) (fun s => (s.statusWord, s.out)) =
    some (0x0048#16, [.cmpWrite .left .a 500, .cmpWrite .left .b 1000]) := by decide
theorem test_mouseTa : peek (exec .mouseTa base) (fun s => (s.statusWord, cmps s)) =
    some (0x0054#16, [500, 1000, 1000, 500]) := by decide
/-- P4 step 11: after a host `DRIVE` the same action is no no-op. -/
theorem test_mouseTl_after_drive :
    peek (exec .mouseTl { running .rev .fwd 0 0 48 52 with mouseStat := .turnLeft })
      (fun s => (s.left.mstat, s.out.length)) = some (.stop, 2) := by decide
/-- D-C1, D-H10. -/
theorem test_edgeL : peek (exec (.edgeL 0x1000#16) base) (fun s => (s.left.cap, s.statusWord)) =
    some (0x1000#16, 0x012A#16) := by decide
theorem test_edgeR : peek (exec (.edgeR 0x0180#16) base) (fun s => (s.right.cap, s.statusWord)) =
    some (0x0180#16, 0x022A#16) := by decide
/-- D-C4 across the wrap, D-C10 not enabled. -/
theorem test_capsvcL_wraps :
    peek (exec .capsvcL { base with left := { base.left with prev := 0xFFF0, cap := 0x0010, capFlag := 1 } })
      (fun s => (s.left.delta, s.dist, s.out)) =
    some (0x0020#16, 0, [.capRead .left, .flagRead .capL, .flagWrite0 .capL]) := by decide
theorem test_capsvcL_not_enabled : why (exec .capsvcL base) = some (.serviceNotEnabled .capL) := by decide
/-- D-C7 (its last step) and D-C9. -/
theorem test_capsvcR_counts :
    peek (exec .capsvcR { base with right := { base.right with cap := 0x0180, capFlag := 1 }, dist := 1 })
      (fun s => (s.right.delta, s.right.prev, s.dist)) = some (0x0180#16, 0x0180#16, 0) := by decide
theorem test_capsvcR_from_top :
    peek (exec .capsvcR { base with right := { base.right with capFlag := 1 }, dist := 0xFFFF }) State.dist =
      some 0xFFFE#16 := by decide
/-- R170. -/
theorem test_tof : peek (exec .tof base) State.statusWord = some 0x042A#16 := by decide
/-- D-S1 (V1), D-S4 (V2), D-S12, D-S13, D-S18, D-S19: duty cycles and compare registers. -/
theorem test_ctlsvc_corrects :
    (peek (exec .ctlsvc (running .fwd .fwd 10 4 50 50)) (fun s => (s.left.duty, s.right.duty, cmps s)) =
      some (48, 52, [480, 1000, 520, 1000])) ∧
    (peek (exec .ctlsvc (running .fwd .fwd 1 2 90 50)) (fun s => (s.left.duty, s.right.duty, cmps s)) =
      some (90, 48, [900, 1000, 480, 1000])) ∧
    (peek (exec .ctlsvc (running .fwd .fwd 0x8000 0x7FFF 50 50)) (fun s => (s.left.duty, s.right.duty)) =
      some (48, 52)) ∧
    (peek (exec .ctlsvc (running .fwd .fwd 0 0xFFFF 50 50)) (fun s => (s.left.duty, s.right.duty)) =
      some (52, 48)) ∧
    (peek (exec .ctlsvc (running .fwd .rev 10 4 50 50)) cmps = some [480, 1000, 1000, 520]) := by decide
/-- D-S16: 1 - 2 over the integers, clamped to 0; and V6, the closed gate. -/
theorem test_ctlsvc_integers_and_gate :
    (peek (exec .ctlsvc { running .fwd .fwd 2 1 1 1 with cfg := wide }) (fun s => (s.left.duty, s.right.duty)) =
      some (0, 3)) ∧
    (peek (exec .ctlsvc (running .stop .fwd 10 4 50 50)) (fun s => (s.left.duty, s.right.duty, s.out)) =
      some (50, 50, [.flagRead .tof, .flagWrite0 .tof])) := by decide
/-- D-B1, D-B7. -/
theorem test_setbit : peek (exec (.setbit 8 0x41 7) base) State.reply = some (some (.bits 8 0xC1)) := by decide
theorem test_setbit_refused : why (exec (.setbit 8 0x00 8) base) = some (.bitIndexOutOfRange 8 8) := by decide
/-- D-B3, D-B6. -/
theorem test_clrbit : peek (exec (.clrbit 8 0xC1 7) base) State.reply = some (some (.bits 8 0x41)) := by decide
theorem test_clrbit_low : peek (exec (.clrbit 8 0xFF 0) base) State.reply = some (some (.bits 8 0xFE)) := by decide

/-! ## Witnesses: the hypotheses of each statement can be met, clause by clause -/

theorem witness_EncodeThenDecodeIsIdentity :
    ((Instr.rd 0xD#4).WellFormed ∧ encode (.rd 0xD#4) = some (.host 0x0D0000#21)) ∧
      ((Instr.setbit 8 0x41#8 7).WellFormed ∧ encode (.setbit 8 0x41#8 7) = none) := by decide
theorem witness_DecodeAcceptsOnlyEncodings :
    decode (.event 0x0FFFF#18) = .ok (.edgeL 0xFFFF#16) ∧ decode (.host 0x000000#21) = .ok (.rd 0x0#4) := by decide
/-- D-D8 to D-D11, D-M11, D-M12, D-H7, D-H8, D-H12 and the event words, each refused under its own name. -/
theorem witness_ReservedEncodingsAreRefused :
    [Input.host 0x100110#21, .host 0x100018#21, .host 0x100000#21, .host 0x100030#21, .host 0x100013#21,
      .host 0x100026#21, .host 0x12003C#21, .host 0x150000#21, .host 0x170000#21, .host 0x1FFFFF#21,
      .host 0x070000#21, .host 0x0F0000#21, .host 0x010001#21, .event 0x30000#18, .event 0x20001#18].map
        (fun inp => why (step { base with agenda := [inp] })) =
    [DecodeError.commandZeroBits 0x0110, .commandZeroBits 0x0018, .commandOp 0, .commandOp 0x0030,
      .driveAction 0x0013, .mouseAction 0x0026, .notWritable 2, .notWritable 5, .notWritable 7, .notWritable 15,
      .notReadable 7, .notReadable 15, .readWithData 1, .eventSource, .tofWithTimestamp 1].map
        (fun e => some (Refusal.undecodable e)) := by decide
theorem witness_StepRunsDecodedInput :
    ({ base with agenda := [.event 0x20000#18] } : State).agenda = .event 0x20000#18 :: [] ∧
      decode (.event 0x20000#18) = .ok .tof := by decide
theorem witness_IdleStepKeepsAllState : base.agenda = [] ∧ base.Quiescent := by decide
theorem witness_UnattendedStepServesPendingSource :
    (running .fwd .fwd 0 0 50 50).agenda = [] ∧ ¬ (running .fwd .fwd 0 0 50 50).Quiescent := by decide
/-- Both sides of the equivalence: an enabled and a not enabled service turn. -/
theorem witness_AnyEnabledStepMayComeNext :
    Instr.ctlsvc.WellFormed ∧ encode .ctlsvc = some (.service .tof) ∧
      peek (step { running .fwd .fwd 0 0 50 50 with agenda := [.service .tof] }) State.tofFlag = some 0 ∧
      why (step { base with agenda := [.service .tof] }) = some (.serviceNotEnabled .tof) := by decide
theorem witness_EveryStopIsNamed :
    peek (step { base with agenda := [.event 0x20000#18] }) State.tofFlag = some 1 ∧
      why (step { base with agenda := [.event 0x30000#18] }) = some (.undecodable .eventSource) ∧
      why (step { base with agenda := [.service .capR] }) = some (.serviceNotEnabled .capR) := by decide
theorem witness_UnattendedBlockIsQuiescentInThreeSteps : (running .fwd .fwd 0 0 50 50).agenda = [] := by decide
theorem witness_FetchedTableWordRuns :
    decodeTableWord 21 0x100020 = some .mouseFwd ∧ decodeTableWord 18 0x20000 = some .tof ∧
      decodeTableWord 0 0 = some .capsvcL ∧
      peek (step (base.withFetchWord 0 0)) (fun s => s.left.capFlag) = some 0 := by decide
/-- The head of 95_test_vectors.md writes these values out. -/
theorem test_vector_configuration :
    (vec.raw.pwmPeriodTicks, vec.raw.offValue, vec.raw.pwMin, vec.raw.pwMax, vec.raw.defaultSpeed) =
      (1000, 1000, 10, 90, 50) := by decide
/-- The corners of the OPEN parameters' ranges. -/
theorem witness_DefaultConfigurationValues :
    (1 ≤ 1 ∧ 1 < 2 ^ 16 ∧ 10 ≤ 10 ∧ 10 ≤ 90) ∧ (1 ≤ 65535 ∧ 65535 < 2 ^ 16 ∧ 10 ≤ 90 ∧ 90 ≤ 90) := by decide
/-- The bounds of rule R8, met exactly and missed by one. -/
theorem witness_IllegalConfigurationIsRefused :
    [{ vec.raw with pwMax := 100, pwMin := 0 }, { vec.raw with pwMin := 50, pwMax := 50 },
      { vec.raw with pwmPeriodTicks := 1 }, { vec.raw with offValue := 65535 }].map (fun r => why (configure r)) =
        [none, none, none, none] ∧
    [{ vec.raw with pwMax := 101 }, { vec.raw with pwMin := 51 }, { vec.raw with pwMax := 49 },
      { vec.raw with pwmPeriodTicks := 0 }, { vec.raw with pwmPeriodTicks := 1001 },
      { vec.raw with offValue := 65536 }].map (fun r => why (configure r)) =
        List.replicate 6 (some .illegalConfiguration) := by decide
theorem witness_StepKeepsInvariant :
    base.Inv ∧ ({ base with agenda := [.host 0x100025#21] } : State).Inv ∧
      peek (step { base with agenda := [.host 0x100025#21] }) (fun s => decide s.Inv) = some true := by decide
theorem witness_EveryReachableStateMeetsInvariant :
    peek (Host.Core.run core 2 { State.resetOf vec with agenda := [.host 0x100020#21, .host 0x100011#21] }) cmps =
      some [1000, 500, 500, 1000] := by decide
theorem witness_ParametersFixedAndTraceGrows :
    peek (step { base with agenda := [.host 0x100020#21] }) (fun s => (s.cfg, s.out.length)) = some (vec, 4) := by
  decide
theorem witness_OnValueIsMonotonic :
    100 ≤ (100 : Duty).toNat ∧ 100 ≤ (255 : Duty).toNat ∧ (10 : Duty).toNat ≤ (11 : Duty).toNat := by decide
theorem witness_CaptureServicesEffect :
    ({ base with left := { base.left with capFlag := 1 } } : State).left.capFlag = 1 ∧ base.left.capFlag = 0 ∧
      ({ base with right := { base.right with capFlag := 1 } } : State).right.capFlag = 1 ∧
      base.right.capFlag = 0 := by decide
theorem witness_CountdownSaturatesAtZero :
    (∀ v, Instr.lddist v ∉ [Instr.edgeR 1#16, .edgeL 2#16, .capsvcL, .tof, .capsvcR]) ∧
      peek (execAll [.edgeR 1#16, .edgeL 2#16, .capsvcL, .tof, .capsvcR] { base with dist := 1 }) State.dist =
        some 0 := ⟨by simp, by decide⟩
theorem witness_CaptureServicesCommute :
    peek (execAll [.edgeL 1#16, .edgeR 2#16, .capsvcL, .capsvcR] base) (fun s => (s.left.delta, s.right.delta)) =
      peek (execAll [.edgeL 1#16, .edgeR 2#16, .capsvcR, .capsvcL] base)
        (fun s => (s.left.delta, s.right.delta)) ∧
    peek (execAll [.edgeL 1#16, .edgeR 2#16] base) (fun s => (s.left.capFlag, s.right.capFlag)) = some (1, 1) := by
  decide
theorem witness_BalanceServiceEffect :
    ((running .fwd .rev 10 4 50 50).tofFlag = 1 ∧ (running .fwd .rev 10 4 50 50).left.mstat ≠ .stop ∧
      (running .fwd .rev 10 4 50 50).right.mstat ≠ .stop) ∧
    ((running .stop .fwd 10 4 50 50).tofFlag = 1 ∧ (running .stop .fwd 10 4 50 50).left.mstat = .stop) ∧
    ((running .fwd .stop 10 4 50 50).tofFlag = 1 ∧ (running .fwd .stop 10 4 50 50).right.mstat = .stop) ∧
    base.tofFlag = 0 := by decide
/-- A duty cycle out of range before. -/
theorem witness_CorrectionLandsInRange :
    (running .rev .fwd 0 0 255 0).tofFlag = 1 ∧ (running .rev .fwd 0 0 255 0).left.mstat ≠ .stop ∧
      (running .rev .fwd 0 0 255 0).right.mstat ≠ .stop := by decide
/-- D-S5 (one side clamped) with its driven compare registers, and D-S6 (both wanted values in range). -/
theorem witness_CorrectionConservesSum :
    (peek (execAll [.driveLFwd, .driveRFwd] (running .fwd .fwd 1 2 89 50)) (fun s => decide s.Inv) = some true ∧
      peek (execAll [.driveLFwd, .driveRFwd, .ctlsvc] (running .fwd .fwd 1 2 89 50))
        (fun s => (s.left.duty, s.right.duty)) = some (90, 48)) ∧
    (peek (execAll [.driveLFwd, .driveRFwd] (running .fwd .fwd 1 2 88 50)) (fun s => decide s.Inv) = some true ∧
      (wanted 1 2 88 50).1 = 90 ∧ (wanted 1 2 88 50).2 = 48) := by decide
/-- D-S10, D-S11. -/
theorem witness_CorrectionFixedPoints :
    (peek (exec .ctlsvc (running .fwd .fwd 2 1 10 90)) (fun s => (s.left.duty, s.right.duty)) = some (10, 90)) ∧
    (peek (exec .ctlsvc (running .fwd .fwd 1 2 90 10)) (fun s => (s.left.duty, s.right.duty)) = some (90, 10)) := by
  decide
theorem witness_OneControllerRunPerOverflow :
    peek (exec .ctlsvc (running .fwd .fwd 0 0 50 50)) State.tofFlag = some 0 ∧
      Instr.tof ∉ [Instr.edgeL 1#16, .capsvcL, .mouseTa] ∧
      peek (execAll [.ctlsvc, .edgeL 1#16, .capsvcL, .mouseTa] (running .fwd .fwd 0 0 50 50)) State.tofFlag =
        some 0 := by decide
theorem witness_MouseIsIdempotent :
    (∀ i ∈ [Instr.tof, Instr.ctlsvc], (∀ w a, i ≠ driveInstr w a) ∧ ∀ m, i ≠ mouseInstr m) ∧
      peek (execAll [.mouseTa, .tof, .ctlsvc] base) State.statusWord = some 0x0054#16 := by
  refine ⟨?_, by decide⟩
  intro i hi
  simp only [List.mem_cons, List.not_mem_nil, or_false] at hi
  rcases hi with rfl | rfl
  · exact ⟨fun w a => by cases w <;> cases a <;> decide, fun m => by cases m <;> decide⟩
  · exact ⟨fun w a => by cases w <;> cases a <;> decide, fun m => by cases m <;> decide⟩
/-- The boundary of the index: the top bit, and the width itself. -/
theorem witness_SetBitEffect :
    (0 < 1 ∧ 15 < 16 ∧ 16 ≤ 16) ∧
      peek (exec (.setbit 16 0#16 15) base) State.reply = some (some (.bits 16 0x8000)) ∧
      why (exec (.setbit 16 0#16 16) base) = some (.bitIndexOutOfRange 16 16) := by decide
theorem witness_ClearBitEffect :
    peek (exec (.clrbit 1 1#1 0) base) State.reply = some (some (.bits 1 0#1)) ∧
      why (exec (.clrbit 1 1#1 1) base) = some (.bitIndexOutOfRange 1 1) := by decide
theorem witness_ReadsReturnRegisters :
    0x0#4 ∉ [0x7#4, 0xE#4, 0xF#4] ∧ 0xD#4 ∉ [0x7#4, 0xE#4, 0xF#4] ∧ 0xF#4 ∈ [0x7#4, 0xE#4, 0xF#4] := by decide
theorem witness_BitFieldLaws :
    (0 : Nat) ≠ 7 ∧ setBit (clrBit 0xC1#8 7) 1 = clrBit (setBit 0xC1#8 1) 7 := by decide
/-- For every clause an operation that changes the register. -/
theorem witness_EachRegisterHasItsWriters :
    peek (exec .driveLFwd base) (fun s => decide (s.left.mstat ≠ base.left.mstat ∧ s.left.cmpA ≠ base.left.cmpA)) =
      some true ∧
    peek (exec .mouseTr base) (fun s => decide (s.mouseStat ≠ base.mouseStat)) = some true ∧
    peek (exec .ctlsvc (running .fwd .fwd 10 4 50 50)) (fun s => decide (s.left.duty ≠ 50)) = some true ∧
    peek (exec .capsvcL { base with left := { base.left with cap := 5, capFlag := 1 }, dist := 1 })
      (fun s => decide (s.left.delta ≠ 0 ∧ s.left.prev ≠ 0 ∧ s.dist ≠ 1)) = some true ∧
    peek (exec (.edgeR 7#16) base) (fun s => decide (s.right.cap ≠ base.right.cap)) = some true ∧
    peek (exec (.rd 0x0#4) base) (fun s => decide (s.reply ≠ base.reply)) = some true ∧
    peek (exec (.edgeR 7#16) base) (fun s => decide (s.right.capFlag ≠ base.right.capFlag)) = some true ∧
    peek (exec .capsvcL { base with left := { base.left with capFlag := 1 } })
      (fun s => decide (s.left.capFlag ≠ 1 ∧ s.out ≠ base.out)) = some true ∧
    peek (exec .tof base) (fun s => decide (s.tofFlag ≠ base.tofFlag)) = some true ∧
    peek (exec .ctlsvc (running .stop .fwd 0 0 50 50)) (fun s => decide (s.tofFlag ≠ 1)) = some true := by decide
theorem witness_PendingEventIsNeverLost :
    (running .fwd .fwd 0 0 50 50).flag .tof = 1 ∧
      serviceInstr .tof ∉ [Instr.tof, .edgeL 3#16, .capsvcL, .mouseStop] ∧
      peek (execAll [.tof, .edgeL 3#16, .capsvcL, .mouseStop] (running .fwd .fwd 0 0 50 50)) State.tofFlag =
        some 1 := by decide
theorem witness_FlagIsClearedExactlyOnce :
    (peek (exec .ctlsvc (running .fwd .fwd 10 4 50 50)) (fun s => s.out.length) = some 6) ∧
      peek (exec .mouseFwd base) (fun s => s.out.length) = some 4 := by decide

end Sys2Proof.Machine.Test
end

/-! The statements from 00_scope.md: the parameters and their legality (rules R6 to R8), the step and what enables it
(rule R10), the trace (rules R11, R12) and the on value (rules R16, R136). -/

namespace Sys2Proof

/-! ## The encoder's inputs decode to the operation they carry -/

theorem decode_driveCommand (w : Wheel) (a : MotorStatus) :
    decode (.host (hostWord 1 0 (driveCommand w a))) = .ok (driveInstr w a) := by
  rw [decode_hostWord]
  exact decodeCommand_driveCommand w a

theorem decode_mouseCommand (m : MouseStatus) :
    decode (.host (hostWord 1 0 (mouseCommand m))) = .ok (mouseInstr m) := by
  rw [decode_hostWord]
  exact decodeCommand_mouseCommand m

theorem decodeRead_zero {addr : Addr} (h : readableAddr addr = true) : decodeRead addr 0 = .ok (.rd addr) := by
  simp [decodeRead, h]

theorem decode_encode {i : Instr} {inp : Input} (hw : i.WellFormed) (he : encode i = some inp) :
    decode inp = .ok i := by
  cases i with
  | rd addr => cases he; rw [decode_hostWord]; exact decodeRead_zero hw
  | lddist v => cases he; rw [decode_hostWord]; rfl
  | driveLFwd => cases he; exact decode_driveCommand .left .fwd
  | driveLRev => cases he; exact decode_driveCommand .left .rev
  | driveLStop => cases he; exact decode_driveCommand .left .stop
  | driveRFwd => cases he; exact decode_driveCommand .right .fwd
  | driveRRev => cases he; exact decode_driveCommand .right .rev
  | driveRStop => cases he; exact decode_driveCommand .right .stop
  | mouseFwd => cases he; exact decode_mouseCommand .fwd
  | mouseRev => cases he; exact decode_mouseCommand .rev
  | mouseStop => cases he; exact decode_mouseCommand .stop
  | mouseTl => cases he; exact decode_mouseCommand .turnLeft
  | mouseTr => cases he; exact decode_mouseCommand .turnRight
  | mouseTa => cases he; exact decode_mouseCommand .turnAround
  | edgeL ts => cases he; simp [decode, decodeEvent, eventWord_src, eventWord_ts]
  | edgeR ts => cases he; simp [decode, decodeEvent, eventWord_src, eventWord_ts]
  | tof => cases he; rfl
  | capsvcL => cases he; rfl
  | capsvcR => cases he; rfl
  | ctlsvc => cases he; rfl
  | setbit n v k => cases he
  | clrbit n v k => cases he

end Sys2Proof

namespace Sys2Proof.Machine

/-! ## When an operation answers a next state -/

/-- The readable addresses are those with a register behind them (20_memory.md rule R61). -/
theorem regRead_isSome (addr : Addr) (s : State) : (regRead addr s).isSome = readableAddr addr := by
  obtain ⟨n, hn⟩ := addr
  interval_cases n <;> rfl

/-- What the service step of a source does before its flag clear. -/
def serviceBody : Source → State → State
  | .capL => captureBody .left
  | .capR => captureBody .right
  | .tof => balanceBody

theorem exec_serviceInstr (src : Source) (s : State) :
    exec (serviceInstr src) s = serve src (serviceBody src) s := by
  cases src <;> rfl

theorem exec_serviceInstr_next_iff (src : Source) (s : State) :
    (∃ t, exec (serviceInstr src) s = .next t) ↔ s.flag src = 1 := by
  rw [exec_serviceInstr]
  constructor
  · rintro ⟨t, ht⟩
    exact (serve_next ht).1
  · intro hf
    exact ⟨_, serve_enabled hf⟩

theorem exec_next_of_not_service {i : Instr} (hw : i.WellFormed) (hs : ∀ src, i ≠ serviceInstr src) (s : State) :
    ∃ t, exec i s = .next t := by
  cases i with
  | rd addr =>
    obtain ⟨v, hv⟩ := Option.isSome_iff_exists.1 ((regRead_isSome addr s).trans hw)
    exact ⟨s.giveReply (.word v), by simp only [exec, execRd, hv]⟩
  | setbit n v k => exact ⟨_, if_pos (of_decide_eq_true hw)⟩
  | clrbit n v k => exact ⟨_, if_pos (of_decide_eq_true hw)⟩
  | capsvcL => exact absurd rfl (hs .capL)
  | capsvcR => exact absurd rfl (hs .capR)
  | ctlsvc => exact absurd rfl (hs .tof)
  | _ => exact ⟨_, rfl⟩

theorem exec_next_iff {i : Instr} (hw : i.WellFormed) (s : State) :
    (∃ t, exec i s = .next t) ↔ ∀ src, i = serviceInstr src → s.flag src = 1 := by
  constructor
  · rintro ht src rfl
    exact (exec_serviceInstr_next_iff src s).1 ht
  · intro hf
    by_cases hs : ∃ src, i = serviceInstr src
    · obtain ⟨src, rfl⟩ := hs
      exact (exec_serviceInstr_next_iff src s).2 (hf src rfl)
    · exact exec_next_of_not_service hw (fun src hi => hs ⟨src, hi⟩) s

/-! ## The step that takes the first input of the agenda -/

theorem step_of_decode {s : State} {inp : Input} {rest : List Input} {i : Instr} (ha : s.agenda = inp :: rest)
    (hd : decode inp = .ok i) : step s = exec i { s with agenda := rest } := by
  rw [step_of_nextInput (nextInput_agenda ha), hd]

@[simp] theorem State.flag_set_agenda (s : State) (l : List Input) (src : Source) :
    ({ s with agenda := l } : State).flag src = s.flag src := by
  cases src <;> rfl

/-! ## What no operation writes: the parameters, and the trace so far -/

theorem Effect.cfg_eq {i : Instr} {s t : State} (h : Effect i s t) : t.cfg = s.cfg := by
  cases h with
  | mouse m hi ht => rw [ht, dispatch_eq]
  | _ => simp only [*]

/-- The records of a dispatch, of a driver call and of a service step stand after those already there. -/
theorem Effect.out_prefix {i : Instr} {s t : State} (h : Effect i s t) : s.out <+: t.out := by
  cases h with
  | mouse m hi ht =>
    rw [ht, dispatch_eq]
    simp only [List.append_assoc, List.prefix_append]
  | _ => simp only [*, List.append_assoc, List.prefix_append, List.prefix_rfl]

theorem step_cfg_eq_and_out_prefix {s t : State} (h : step s = .next t) : t.cfg = s.cfg ∧ s.out <+: t.out := by
  obtain rfl | ⟨i, l, n, he⟩ := step_next h
  · exact ⟨rfl, List.prefix_rfl⟩
  · have hi := effect_of_exec he
    exact ⟨hi.cfg_eq, hi.out_prefix⟩

/-! ## The on value -/

theorem dutyval_zero (c : Config) : dutyval c 0 = 0 :=
  BitVec.eq_of_toNat_eq (by simp [dutyval_toNat])

theorem dutyval_toNat_of_ge (c : Config) (d : Duty) (h : 100 ≤ d.toNat) :
    (dutyval c d).toNat = c.raw.pwmPeriodTicks := by
  rw [dutyval_toNat, Nat.min_eq_right h, Nat.mul_div_cancel_left _ (by decide)]

theorem dutyval_mono (c : Config) {d₁ d₂ : Duty} (h : d₁.toNat ≤ d₂.toNat) :
    (dutyval c d₁).toNat ≤ (dutyval c d₂).toNat := by
  rw [dutyval_toNat, dutyval_toNat]
  exact Nat.div_le_div_right (Nat.mul_le_mul_right _ (min_le_min_right 100 h))

theorem dutyval_le_period (c : Config) (d : Duty) : (dutyval c d).toNat ≤ c.raw.pwmPeriodTicks := by
  have hfull : (dutyval c 255).toNat = c.raw.pwmPeriodTicks := dutyval_toNat_of_ge c 255 (by decide)
  have hmax : d.toNat ≤ (255 : Duty).toNat := Nat.le_of_lt_succ d.isLt
  exact hfull ▸ dutyval_mono c hmax

/-! ## The configuration -/

theorem configure_of_legal (c : Config) : configure c.raw = .next (State.resetOf c) :=
  dif_pos c.legal

theorem configure_of_illegal {r : RawConfig} (h : ¬ r.Legal) : configure r = .refused .illegalConfiguration :=
  dif_neg h

/-- Rule R8 also bounds `PW_MIN` by 0 from below, which every natural number meets. -/
theorem legal_iff_rule (r : RawConfig) :
    r.Legal ↔ 0 ≤ r.pwMin ∧ r.pwMin ≤ r.defaultSpeed ∧ r.defaultSpeed ≤ r.pwMax ∧ r.pwMax ≤ 100 ∧
      1 ≤ r.pwmPeriodTicks ∧ r.pwmPeriodTicks ≤ r.offValue ∧ r.offValue < 2 ^ 16 :=
  (and_iff_right (Nat.zero_le r.pwMin)).symm

/-- With the defaults of rules R6 and R7, the constraints of the OPEN parameters are all of rule R8. -/
theorem legal_of_defaults {period speed : Nat} (clock pwmMs : Nat) (hperiod : 1 ≤ period) (hfits : period < 2 ^ 16)
    (hmin : 10 ≤ speed) (hmax : speed ≤ 90) :
    RawConfig.Legal
      { pwmPeriodTicks := period, defaultSpeed := speed, busClockMHz := clock, pwmPeriodMs := pwmMs } :=
  ⟨hmin, hmax, show 90 ≤ 100 by decide, hperiod, le_rfl, hfits⟩

/-! ## The statements -/

/-- Settles O9: the first input decodes to the operation it carries, and an operation answers a next state exactly when
it is no service step or its flag is 1. -/
theorem anyEnabledStepMayComeNext : Obligations.AnyEnabledStepMayComeNext := by
  intro s i inp rest hw he ha
  rw [step_of_decode ha (decode_encode hw he), exec_next_iff hw]
  simp only [State.flag_set_agenda]

/-- Settles O18, by the effects an operation can have. -/
theorem parametersFixedAndTraceGrows : Obligations.ParametersFixedAndTraceGrows :=
  fun _ _ h => step_cfg_eq_and_out_prefix h

/-- Settles O20. -/
theorem onValueIsMonotonic : Obligations.OnValueIsMonotonic :=
  fun c => ⟨dutyval_zero c, dutyval_toNat_of_ge c, dutyval_le_period c, fun _ _ h => dutyval_mono c h⟩

/-- Settles O6. -/
theorem stepRunsDecodedInput : Obligations.StepRunsDecodedInput :=
  fun _ _ _ _ ha hd => step_of_decode ha hd

/-- Settles O14: `configure` decides the constraints of rule R8. -/
theorem illegalConfigurationIsRefused : Obligations.IllegalConfigurationIsRefused := by
  intro r
  rw [← legal_iff_rule]
  exact ⟨fun h => ⟨⟨r, h⟩, rfl, configure_of_legal ⟨r, h⟩⟩, configure_of_illegal⟩

/-- Settles O44: the values are the defaults' own, and with them the OPEN parameters' constraints make a legal
configuration, which starts the block. -/
theorem defaultConfigurationValues : Obligations.DefaultConfigurationValues := by
  refine ⟨rfl, ⟨rfl, rfl, rfl, rfl⟩, ?_⟩
  intro period speed clock pwmMs hperiod hfits hmin hmax
  have hlegal := legal_of_defaults clock pwmMs hperiod hfits hmin hmax
  exact ⟨⟨_, hlegal⟩, rfl, ⟨rfl, rfl, rfl, rfl⟩, configure_of_legal ⟨_, hlegal⟩⟩

end Sys2Proof.Machine

/-! The statements from 10_state.md: the reset state (rule R33), the `STATUS` word (rule R31), the invariant (rule R32)
and who may write what (rules R20, R29). -/

namespace Sys2Proof.Machine

open Sys2Proof.Certificates

/-! ## The invariant of a wheel -/

/-- Compare registers that hold the driver's values for the wheel's status and duty cycle are those of (I-c): a duty cycle
in range is at most 100 percent, so its on value is not saturated. -/
theorem WheelUnit.tracks_of_legs {c : Config} {u : WheelUnit}
    (hrange : c.raw.pwMin ≤ u.duty.toNat ∧ u.duty.toNat ≤ c.raw.pwMax)
    (ha : u.cmpA = onLegA u.mstat (dutyval c u.duty) (offCompare c))
    (hb : u.cmpB = onLegB u.mstat (dutyval c u.duty) (offCompare c)) : u.Tracks c := by
  have hlegal := c.legal
  have hon := dutyval_toNat_of_le c u.duty (by omega)
  have hoff := offCompare_toNat c
  refine ⟨hrange, fun hm => ?_, fun hm => ?_, fun hm => ?_⟩ <;>
    simp [ha, hb, hm, onLegA, onLegB, hon, hoff]

theorem WheelUnit.Tracks.driven {c : Config} {u : WheelUnit} (h : u.Tracks c) (a : MotorStatus) :
    (u.driven a (dutyval c u.duty) (offCompare c)).Tracks c :=
  tracks_of_legs h.1 rfl rfl

theorem WheelUnit.Tracks.driven_unless {c : Config} {u : WheelUnit} (h : u.Tracks c) (a : MotorStatus) :
    (if u.mstat = a then u else u.driven a (dutyval c u.duty) (offCompare c)).Tracks c := by
  split
  · exact h
  · exact h.driven a

theorem clamp_mem_range (c : Config) (x : Int) :
    c.raw.pwMin ≤ (clamp c x).toNat ∧ (clamp c x).toNat ≤ c.raw.pwMax := by
  have hclamp := (clamp_toNat c x).trans (clampInt_eq_nearest c x).symm
  have hbounds := clampInt_bounds c x
  omega

/-- A correction brings a wheel into the invariant, whatever it was before. -/
theorem WheelUnit.tracks_corrected (u : WheelUnit) (c : Config) (x : Int) : (u.corrected c (clamp c x)).Tracks c :=
  tracks_of_legs (clamp_mem_range c x) rfl rfl

theorem WheelUnit.resetOf_duty_toNat (c : Config) : (WheelUnit.resetOf c).duty.toNat = c.raw.defaultSpeed := by
  have hlegal := c.legal
  exact Nat.mod_eq_of_lt (by omega)

theorem WheelUnit.tracks_resetOf (c : Config) : (WheelUnit.resetOf c).Tracks c := by
  have hlegal := c.legal
  have hduty := resetOf_duty_toNat c
  exact tracks_of_legs (by omega) rfl rfl

/-! ## The invariant of the block -/

theorem State.inv_resetOf (c : Config) : (State.resetOf c).Inv :=
  ⟨WheelUnit.tracks_resetOf c, WheelUnit.tracks_resetOf c⟩

/-- The driver and the controller set a wheel's compare registers along with its status and its duty cycle; every other
operation leaves all four alone. -/
theorem Effect.inv {i : Instr} {s t : State} (h : Effect i s t) (hs : s.Inv) : t.Inv := by
  obtain ⟨hl, hr⟩ := hs
  cases h with
  | driveL a _ ht => rw [ht]; exact ⟨hl.driven a, hr⟩
  | driveR a _ ht => rw [ht]; exact ⟨hl, hr.driven a⟩
  | mouse m _ ht => rw [ht, dispatch_eq]; exact ⟨hl.driven_unless _, hr.driven_unless _⟩
  | balanceOpen _ _ _ ht => rw [ht]; exact ⟨s.left.tracks_corrected _ _, s.right.tracks_corrected _ _⟩
  | _ => subst_vars; exact ⟨hl, hr⟩

theorem step_inv {s t : State} (hs : s.Inv) (h : step s = .next t) : t.Inv := by
  obtain rfl | ⟨i, l, n, he⟩ := step_next h
  · exact hs
  · exact (effect_of_exec he).inv hs

/-- The first step of a run. -/
theorem run_succ_next {M : Host.Core} {n : Nat} {s t : M.State} (h : M.run (n + 1) s = .next t) :
    ∃ s', M.step s = .next s' ∧ M.run n s' = .next t := by
  rw [Host.Core.run] at h
  split at h
  · exact ⟨_, ‹_›, h⟩
  · cases h
  · cases h

/-- What every step keeps, every run keeps. -/
theorem run_invariant {P : State → Prop} (hstep : ∀ s t, P s → step s = .next t → P t) (n : Nat) {s t : State}
    (hs : P s) (h : Host.Core.run core n s = .next t) : P t := by
  induction n generalizing s with
  | zero => cases h; exact hs
  | succ n ih =>
    obtain ⟨s', hfirst, hrest⟩ := run_succ_next h
    exact ih (hstep s s' hs hfirst) hrest

theorem motorCode_le_two (a : MotorStatus) : (motorCode a).toNat ≤ 2 := by cases a <;> decide

theorem mouseCode_le_five (m : MouseStatus) : (mouseCode m).toNat ≤ 5 := by cases m <;> decide

/-! ## The STATUS word -/

theorem motorCode_toNat (a : MotorStatus) : (motorCode a).toNat = statusCode a := by cases a <;> rfl

theorem mouseCode_toNat (m : MouseStatus) : (mouseCode m).toNat = mouseStatusCode m := by cases m <;> rfl

theorem toNat_append_eq_add {m n : Nat} (x : BitVec m) (y : BitVec n) :
    (x ++ y).toNat = x.toNat * 2 ^ n + y.toNat := by
  rw [BitVec.toNat_append, ← Nat.shiftLeft_add_eq_or_of_lt y.isLt, Nat.shiftLeft_eq]

/-- The `STATUS` word as a number (rule R31). -/
theorem State.statusWord_toNat (s : State) :
    s.statusWord.toNat = statusCode s.left.mstat + 4 * statusCode s.right.mstat + 16 * mouseStatusCode s.mouseStat +
      256 * s.left.capFlag.toNat + 512 * s.right.capFlag.toNat + 1024 * s.tofFlag.toNat := by
  simp only [State.statusWord, State.flag, toNat_append_eq_add, motorCode_toNat, mouseCode_toNat, BitVec.toNat_ofNat]
  omega

theorem reads_status (s : State) : Reads s 0x1#4 s.statusWord := rfl

theorem State.statusWord_resetOf (c : Config) : (State.resetOf c).statusWord = 0x002A#16 :=
  BitVec.eq_of_toNat_eq (State.statusWord_toNat _)

theorem refusedInput_of_decode {inp : Input} {e : DecodeError} (h : decode inp = .error e) : RefusedInput inp :=
  ⟨e, h, fun s rest ha => by rw [step_of_nextInput (nextInput_agenda ha), h]⟩

theorem decode_write_status (v : Word) : decode (.host (hostWord 1 0x1 v)) = .error (.notWritable 0x1) := by
  rw [decode_hostWord]
  rfl

theorem statusCode_le_two (a : MotorStatus) : statusCode a ≤ 2 :=
  motorCode_toNat a ▸ motorCode_le_two a

theorem mouseStatusCode_le_five (m : MouseStatus) : mouseStatusCode m ≤ 5 :=
  mouseCode_toNat m ▸ mouseCode_le_five m

/-- No field of the `STATUS` word reaches into the next, so each is read back at its bits. -/
theorem State.statusWord_fields (s : State) :
    (s.statusWord.extractLsb' 0 2).toNat = statusCode s.left.mstat ∧
      (s.statusWord.extractLsb' 2 2).toNat = statusCode s.right.mstat ∧
      (s.statusWord.extractLsb' 4 3).toNat = mouseStatusCode s.mouseStat ∧
      s.statusWord.extractLsb' 7 1 = 0 ∧ s.statusWord.extractLsb' 8 1 = s.left.capFlag ∧
      s.statusWord.extractLsb' 9 1 = s.right.capFlag ∧ s.statusWord.extractLsb' 10 1 = s.tofFlag ∧
      s.statusWord.extractLsb' 11 5 = 0 := by
  have hleft := statusCode_le_two s.left.mstat
  have hright := statusCode_le_two s.right.mstat
  have hmouse := mouseStatusCode_le_five s.mouseStat
  have hcapL := s.left.capFlag.isLt
  have hcapR := s.right.capFlag.isLt
  have htof := s.tofFlag.isLt
  simp only [← BitVec.toNat_inj, field_toNat, s.statusWord_toNat, BitVec.ofNat_eq_ofNat,
    BitVec.toNat_ofNat]
  refine ⟨?_, ?_, ?_, ?_, ?_, ?_, ?_, ?_⟩ <;> omega

/-! ## What the dispatcher leaves alone -/

/-- A dispatch writes nothing of a wheel but its status and its compare registers. -/
theorem dispatch_wheel (m : MouseStatus) (s : State) (w : Wheel) :
    ∃ a cmpA cmpB, (dispatch m s).wheel w = { s.wheel w with mstat := a, cmpA := cmpA, cmpB := cmpB } := by
  rw [dispatch_eq]
  cases w <;> dsimp only [State.wheel] <;> split <;> exact ⟨_, _, _, rfl⟩

section

variable (m : MouseStatus) (s : State) (w : Wheel)

@[simp] theorem dispatch_duty : ((dispatch m s).wheel w).duty = (s.wheel w).duty := by
  obtain ⟨_, _, _, h⟩ := dispatch_wheel m s w
  rw [h]

@[simp] theorem dispatch_delta : ((dispatch m s).wheel w).delta = (s.wheel w).delta := by
  obtain ⟨_, _, _, h⟩ := dispatch_wheel m s w
  rw [h]

@[simp] theorem dispatch_prev : ((dispatch m s).wheel w).prev = (s.wheel w).prev := by
  obtain ⟨_, _, _, h⟩ := dispatch_wheel m s w
  rw [h]

@[simp] theorem dispatch_cap : ((dispatch m s).wheel w).cap = (s.wheel w).cap := by
  obtain ⟨_, _, _, h⟩ := dispatch_wheel m s w
  rw [h]

@[simp] theorem dispatch_capFlag : ((dispatch m s).wheel w).capFlag = (s.wheel w).capFlag := by
  obtain ⟨_, _, _, h⟩ := dispatch_wheel m s w
  rw [h]

@[simp] theorem dispatch_dist : (dispatch m s).dist = s.dist := by rw [dispatch_eq]

@[simp] theorem dispatch_tofFlag : (dispatch m s).tofFlag = s.tofFlag := by rw [dispatch_eq]

@[simp] theorem dispatch_reply : (dispatch m s).reply = s.reply := by rw [dispatch_eq]

@[simp] theorem dispatch_agenda : (dispatch m s).agenda = s.agenda := by rw [dispatch_eq]

@[simp] theorem dispatch_draws : (dispatch m s).draws = s.draws := by rw [dispatch_eq]

end

/-! ## Who may write what: one theorem per register of rule R20's table -/

section

variable {i : Instr} {s t : State}

theorem Effect.mstat_writer (h : Effect i s t) {w : Wheel} (hne : (t.wheel w).mstat ≠ (s.wheel w).mstat) :
    (∃ a, i = driveInstr w a) ∨ ∃ m, i = mouseInstr m := by
  cases h with
  | mouse m hi _ => exact .inr ⟨m, hi⟩
  | driveL a hi ht =>
    cases w with
    | left => exact .inl ⟨a, hi⟩
    | right => subst ht; exact absurd rfl hne
  | driveR a hi ht =>
    cases w with
    | right => exact .inl ⟨a, hi⟩
    | left => subst ht; exact absurd rfl hne
  | _ => subst_vars; cases w <;> exact absurd rfl hne

theorem Effect.cmp_writer (h : Effect i s t) {w : Wheel}
    (hne : (t.wheel w).cmpA ≠ (s.wheel w).cmpA ∨ (t.wheel w).cmpB ≠ (s.wheel w).cmpB) :
    (∃ a, i = driveInstr w a) ∨ (∃ m, i = mouseInstr m) ∨ i = .ctlsvc := by
  rw [← not_and_or] at hne
  cases h with
  | mouse m hi _ => exact .inr (.inl ⟨m, hi⟩)
  | balanceOpen hi _ _ _ => exact .inr (.inr hi)
  | driveL a hi ht =>
    cases w with
    | left => exact .inl ⟨a, hi⟩
    | right => subst ht; exact absurd ⟨rfl, rfl⟩ hne
  | driveR a hi ht =>
    cases w with
    | right => exact .inl ⟨a, hi⟩
    | left => subst ht; exact absurd ⟨rfl, rfl⟩ hne
  | _ => subst_vars; cases w <;> exact absurd ⟨rfl, rfl⟩ hne

theorem Effect.duty_writer (h : Effect i s t) {w : Wheel} (hne : (t.wheel w).duty ≠ (s.wheel w).duty) :
    i = .ctlsvc := by
  cases h with
  | balanceOpen hi _ _ _ => exact hi
  | mouse m _ ht => subst ht; exact absurd (dispatch_duty m s w) hne
  | _ => subst_vars; cases w <;> exact absurd rfl hne

theorem Effect.delta_prev_writer (h : Effect i s t) {w : Wheel}
    (hne : (t.wheel w).delta ≠ (s.wheel w).delta ∨ (t.wheel w).prev ≠ (s.wheel w).prev) :
    i = captureService w := by
  rw [← not_and_or] at hne
  cases h with
  | captureL hi _ ht =>
    cases w with
    | left => exact hi
    | right => subst ht; exact absurd ⟨rfl, rfl⟩ hne
  | captureR hi _ ht =>
    cases w with
    | right => exact hi
    | left => subst ht; exact absurd ⟨rfl, rfl⟩ hne
  | mouse m _ ht => subst ht; exact absurd ⟨dispatch_delta m s w, dispatch_prev m s w⟩ hne
  | _ => subst_vars; cases w <;> exact absurd ⟨rfl, rfl⟩ hne

theorem Effect.cap_writer (h : Effect i s t) {w : Wheel} (hne : (t.wheel w).cap ≠ (s.wheel w).cap) :
    ∃ ts, i = edgeInstr w ts := by
  cases h with
  | edgeL ts hi ht =>
    cases w with
    | left => exact ⟨ts, hi⟩
    | right => subst ht; exact absurd rfl hne
  | edgeR ts hi ht =>
    cases w with
    | right => exact ⟨ts, hi⟩
    | left => subst ht; exact absurd rfl hne
  | mouse m _ ht => subst ht; exact absurd (dispatch_cap m s w) hne
  | _ => subst_vars; cases w <;> exact absurd rfl hne

theorem Effect.capFlag_writer (h : Effect i s t) {w : Wheel} (hne : (t.wheel w).capFlag ≠ (s.wheel w).capFlag) :
    ((t.wheel w).capFlag = 1 ∧ ∃ ts, i = edgeInstr w ts) ∨ ((t.wheel w).capFlag = 0 ∧ i = captureService w) := by
  cases h with
  | edgeL ts hi ht =>
    subst ht
    cases w with
    | left => exact .inl ⟨rfl, ts, hi⟩
    | right => exact absurd rfl hne
  | edgeR ts hi ht =>
    subst ht
    cases w with
    | right => exact .inl ⟨rfl, ts, hi⟩
    | left => exact absurd rfl hne
  | captureL hi _ ht =>
    subst ht
    cases w with
    | left => exact .inr ⟨rfl, hi⟩
    | right => exact absurd rfl hne
  | captureR hi _ ht =>
    subst ht
    cases w with
    | right => exact .inr ⟨rfl, hi⟩
    | left => exact absurd rfl hne
  | mouse m _ ht => subst ht; exact absurd (dispatch_capFlag m s w) hne
  | _ => subst_vars; cases w <;> exact absurd rfl hne

theorem Effect.mouseStat_writer (h : Effect i s t) (hne : t.mouseStat ≠ s.mouseStat) : ∃ m, i = mouseInstr m := by
  cases h with
  | mouse m hi _ => exact ⟨m, hi⟩
  | _ => subst_vars; exact absurd rfl hne

theorem Effect.dist_writer (h : Effect i s t) (hne : t.dist ≠ s.dist) :
    (∃ w, i = captureService w) ∨ ∃ v, i = .lddist v := by
  cases h with
  | captureL hi _ _ => exact .inl ⟨.left, hi⟩
  | captureR hi _ _ => exact .inl ⟨.right, hi⟩
  | load v hi _ => exact .inr ⟨v, hi⟩
  | mouse m _ ht => subst ht; exact absurd (dispatch_dist m s) hne
  | _ => subst_vars; exact absurd rfl hne

theorem Effect.tofFlag_writer (h : Effect i s t) (hne : t.tofFlag ≠ s.tofFlag) :
    (t.tofFlag = 1 ∧ i = .tof) ∨ (t.tofFlag = 0 ∧ i = .ctlsvc) := by
  cases h with
  | overflow hi ht => subst ht; exact .inl ⟨rfl, hi⟩
  | balanceClosed hi _ _ ht => subst ht; exact .inr ⟨rfl, hi⟩
  | balanceOpen hi _ _ ht => subst ht; exact .inr ⟨rfl, hi⟩
  | mouse m _ ht => subst ht; exact absurd (dispatch_tofFlag m s) hne
  | _ => subst_vars; exact absurd rfl hne

theorem Effect.out_writer (h : Effect i s t) (hne : t.out ≠ s.out) :
    (∃ w a, i = driveInstr w a) ∨ (∃ m, i = mouseInstr m) ∨ ∃ src, i = serviceInstr src := by
  cases h with
  | driveL a hi _ => exact .inl ⟨.left, a, hi⟩
  | driveR a hi _ => exact .inl ⟨.right, a, hi⟩
  | mouse m hi _ => exact .inr (.inl ⟨m, hi⟩)
  | captureL hi _ _ => exact .inr (.inr ⟨.capL, hi⟩)
  | captureR hi _ _ => exact .inr (.inr ⟨.capR, hi⟩)
  | balanceClosed hi _ _ _ => exact .inr (.inr ⟨.tof, hi⟩)
  | balanceOpen hi _ _ _ => exact .inr (.inr ⟨.tof, hi⟩)
  | _ => subst_vars; exact absurd rfl hne

theorem Effect.reply_writer (h : Effect i s t) (hne : t.reply ≠ s.reply) :
    (∃ a, i = .rd a) ∨ (∃ n v k, i = .setbit n v k) ∨ ∃ n v k, i = .clrbit n v k := by
  cases h with
  | read addr _ hi _ _ => exact .inl ⟨addr, hi⟩
  | setBit n v k hi _ _ => exact .inr (.inl ⟨n, v, k, hi⟩)
  | clrBit n v k hi _ _ => exact .inr (.inr ⟨n, v, k, hi⟩)
  | mouse m _ ht => subst ht; exact absurd (dispatch_reply m s) hne
  | _ => subst_vars; exact absurd rfl hne

theorem Effect.agenda_eq (h : Effect i s t) : t.agenda = s.agenda := by
  cases h with
  | mouse m _ ht => rw [ht, dispatch_agenda]
  | _ => simp only [*]

theorem Effect.draws_eq (h : Effect i s t) : t.draws = s.draws := by
  cases h with
  | mouse m _ ht => rw [ht, dispatch_draws]
  | _ => simp only [*]

end

/-! ## The statements -/

/-- Settles O16: no operation breaks the invariant, and a step is idle or an operation. -/
theorem stepKeepsInvariant : Obligations.StepKeepsInvariant :=
  fun _ _ hs h => step_inv hs h

/-- Settles O17: the invariant holds at reset and every step keeps it; the other clauses hold of every state. -/
theorem everyReachableStateMeetsInvariant : Obligations.EveryReachableStateMeetsInvariant := by
  intro c inputs n t h
  have hreset : ({ State.resetOf c with agenda := inputs } : State).Inv := State.inv_resetOf c
  exact ⟨run_invariant (fun _ _ => step_inv) n hreset h, motorCode_le_two _, motorCode_le_two _,
    mouseCode_le_five _, Nat.zero_le _⟩

/-- Settles O36, by the value of the `STATUS` word as a sum of its fields. -/
theorem statusWordLayout : Obligations.StatusWordLayout := by
  refine ⟨fun s => ⟨s.statusWord, reads_status s, s.statusWord_fields⟩, fun c => ?_, fun v => ?_⟩
  · rw [← State.statusWord_resetOf c]
    exact reads_status _
  · exact refusedInput_of_decode (decode_write_status v)

/-- Settles O41, register by register. -/
theorem eachRegisterHasItsWriters : Obligations.EachRegisterHasItsWriters := by
  intro i s t h
  have he := effect_of_exec h
  exact ⟨fun _ => he.mstat_writer, he.mouseStat_writer, fun _ => he.duty_writer, fun _ => he.delta_prev_writer,
    fun _ => he.cap_writer, he.dist_writer, fun _ => he.cmp_writer, fun _ => he.capFlag_writer, he.tofFlag_writer,
    he.out_writer, he.reply_writer, he.cfg_eq, he.agenda_eq, he.draws_eq⟩

/-- Settles O13: the values are those of `State.resetOf`; `DEFAULT_SPEED` and `OFF_VALUE` fit their registers in every
legal configuration. -/
theorem resetStateValues : Obligations.ResetStateValues := by
  refine ⟨fun c u hu => ?_, fun c => ⟨rfl, rfl, rfl, rfl, rfl, ?_⟩, rfl⟩
  · obtain rfl : u = WheelUnit.resetOf c := (List.mem_pair.1 hu).elim id id
    exact ⟨rfl, WheelUnit.resetOf_duty_toNat c, rfl, rfl, rfl, offCompare_toNat c, offCompare_toNat c, rfl⟩
  · rw [← State.statusWord_resetOf c]
    exact reads_status _

/-- Settles O15. -/
theorem resetMeetsInvariant : Obligations.ResetMeetsInvariant :=
  ⟨State.inv_resetOf Config.params, State.inv_resetOf⟩

end Sys2Proof.Machine

/-! The statements from 20_memory.md: the order of the two capture services (rule R69) and one controller run per overflow
(rule R70). -/

namespace Sys2Proof.Machine

/-! ## Runs of operations -/

/-- What every operation of a list keeps, a run of the list keeps. -/
theorem execAll_invariant {P : State → Prop} {ops : List Instr}
    (hstep : ∀ i ∈ ops, ∀ s t, P s → exec i s = .next t → P t) {s t : State} (hs : P s)
    (h : execAll ops s = .next t) : P t := by
  induction ops generalizing s with
  | nil => cases h; exact hs
  | cons i ops ih =>
    obtain ⟨hi, hops⟩ := List.forall_mem_cons.1 hstep
    obtain ⟨s', hfirst, hrest⟩ := execAll_cons_next h
    exact ih hops (hi s s' hs hfirst) hrest

/-! ## The capture services -/

theorem exec_capsvcL {s : State} (hf : s.left.capFlag = 1) :
    exec .capsvcL s = .next
      { s with
        left := { s.left with delta := s.left.cap - s.left.prev, prev := s.left.cap, capFlag := 0 }
        dist := distAfter s.dist
        out := s.out ++ [.capRead .left, .flagRead .capL, .flagWrite0 .capL] } := by
  rw [← captureServed_left]
  exact serve_enabled hf

theorem exec_capsvcR {s : State} (hf : s.right.capFlag = 1) :
    exec .capsvcR s = .next
      { s with
        right := { s.right with delta := s.right.cap - s.right.prev, prev := s.right.cap, capFlag := 0 }
        dist := distAfter s.dist
        out := s.out ++ [.capRead .right, .flagRead .capR, .flagWrite0 .capR] } := by
  rw [← captureServed_right]
  exact serve_enabled hf

/-! ## The overflow flag -/

theorem exec_ctlsvc_not_enabled {s : State} (hf : s.tofFlag = 0) :
    exec .ctlsvc s = .refused (.serviceNotEnabled .tof) :=
  serve_not_enabled hf

theorem exec_ctlsvc_clears_tofFlag {s t : State} (h : exec .ctlsvc s = .next t) : t.tofFlag = 0 := by
  rw [(serve_next h).2, State.clearFlag_eq]
  rfl

/-- Only `TOF` raises the overflow flag (10_state.md rule R29). -/
theorem exec_keeps_tofFlag_zero {i : Instr} (hi : i ≠ .tof) {s t : State} (hs : s.tofFlag = 0)
    (h : exec i s = .next t) : t.tofFlag = 0 := by
  by_cases hsame : t.tofFlag = s.tofFlag
  · exact hsame.trans hs
  · obtain ⟨-, htof⟩ | ⟨hzero, -⟩ := (effect_of_exec h).tofFlag_writer hsame
    · exact absurd htof hi
    · exact hzero

theorem execAll_keeps_tofFlag_zero {ops : List Instr} (hops : .tof ∉ ops) {s t : State} (hs : s.tofFlag = 0)
    (h : execAll ops s = .next t) : t.tofFlag = 0 :=
  execAll_invariant (P := fun s => s.tofFlag = 0)
    (fun _ hi _ _ => exec_keeps_tofFlag_zero (ne_of_mem_of_not_mem hi hops)) hs h

/-! ## The statements -/

/-- Settles O25: each service writes its own wheel and counts `DIST` down once, so after both, in either order, the
states are the same but for their traces. -/
theorem captureServicesCommute : Obligations.CaptureServicesCommute := by
  intro s hl hr
  exact ⟨_, _, (execAll_cons (exec_capsvcL hl)).trans (execAll_cons (exec_capsvcR hr)),
    (execAll_cons (exec_capsvcR hr)).trans (execAll_cons (exec_capsvcL hl)), rfl⟩

/-- Settles O32: a `CTLSVC` leaves the overflow flag at 0, and a run without a `TOF` keeps it there. -/
theorem oneControllerRunPerOverflow : Obligations.OneControllerRunPerOverflow := by
  intro s t u ops hserved hops hrun
  exact exec_ctlsvc_not_enabled (execAll_keeps_tofFlag_zero hops (exec_ctlsvc_clears_tofFlag hserved) hrun)

end Sys2Proof.Machine

/-! The statements from 30_encoding.md: the encodings (rules R90 to R97), the reserved ones (rule R98), and what a step
makes of the input it takes. -/

namespace Sys2Proof

/-! ## What the decoders refuse -/

theorem decodeRead_of_data_ne (addr : Addr) {data : Word} (hd : data ≠ 0) :
    decodeRead addr data = .error (.readWithData data) :=
  if_pos hd

theorem decodeRead_reserved {addr : Addr} (h : readableAddr addr = false) :
    decodeRead addr 0 = .error (.notReadable addr) := by
  simp [decodeRead, h]

theorem decodeWrite_notWritable {addr : Addr} (h0 : addr ≠ 0x0#4) (h6 : addr ≠ 0x6#4) (v : Word) :
    decodeWrite addr v = .error (.notWritable addr) := by
  unfold decodeWrite
  split
  · exact absurd (BitVec.eq_of_toNat_eq ‹_›) h0
  · exact absurd (BitVec.eq_of_toNat_eq ‹_›) h6
  · rfl

theorem decodeCommand_zeroBits {v : Word} (h : v.extractLsb' 8 8 ≠ 0 ∨ v.extractLsb' 3 1 ≠ 0) :
    decodeCommand v = .error (.commandZeroBits v) :=
  if_pos h

theorem decodeCommand_reserved_op {v : Word} (hz : ¬(v.extractLsb' 8 8 ≠ 0 ∨ v.extractLsb' 3 1 ≠ 0))
    (h1 : v.extractLsb' 4 4 ≠ 1) (h2 : v.extractLsb' 4 4 ≠ 2) : decodeCommand v = .error (.commandOp v) := by
  rw [decodeCommand, if_neg hz]
  split
  · exact absurd (BitVec.eq_of_toNat_eq ‹_›) h1
  · exact absurd (BitVec.eq_of_toNat_eq ‹_›) h2
  · rfl

theorem decode_event_reserved_source (ts : Word) : decode (.event (eventWord 3 ts)) = .error .eventSource := by
  simp [decode, decodeEvent, eventWord_src]

theorem decode_overflow_with_timestamp {ts : Word} (h : ts ≠ 0) :
    decode (.event (eventWord 2 ts)) = .error (.tofWithTimestamp ts) := by
  simpa [decode, decodeEvent, eventWord_src, eventWord_ts] using h

/-! ## What is decoded is well formed and encodes to the word it was read from -/

theorem encode_eq_none_iff (i : Instr) : encode i = none ↔ ∃ n v k, i = .setbit n v k ∨ i = .clrbit n v k := by
  constructor
  · intro h
    cases i with
    | setbit n v k => exact ⟨n, v, k, .inl rfl⟩
    | clrbit n v k => exact ⟨n, v, k, .inr rfl⟩
    | _ => cases h
  · rintro ⟨n, v, k, rfl | rfl⟩ <;> rfl

theorem encode_driveInstr (w : Wheel) (a : MotorStatus) :
    (driveInstr w a).WellFormed ∧ encode (driveInstr w a) = some (.host (hostWord 1 0 (driveCommand w a))) := by
  cases w <;> cases a <;> exact ⟨rfl, rfl⟩

theorem encode_mouseInstr (m : MouseStatus) :
    (mouseInstr m).WellFormed ∧ encode (mouseInstr m) = some (.host (hostWord 1 0 (mouseCommand m))) := by
  cases m <;> exact ⟨rfl, rfl⟩

theorem encode_serviceInstr (src : Source) :
    (serviceInstr src).WellFormed ∧ encode (serviceInstr src) = some (.service src) := by
  cases src <;> exact ⟨rfl, rfl⟩

theorem encode_of_decodeRead {addr : Addr} {data : Word} {i : Instr} (h : decodeRead addr data = .ok i) :
    i.WellFormed ∧ encode i = some (.host (hostWord 0 addr data)) := by
  by_cases hd : data = 0
  · subst hd
    cases hr : readableAddr addr with
    | true =>
      rw [decodeRead_zero hr] at h
      cases h
      exact ⟨hr, rfl⟩
    | false =>
      rw [decodeRead_reserved hr] at h
      cases h
  · rw [decodeRead_of_data_ne addr hd] at h
    cases h

theorem encode_of_decodeCommand {v : Word} {i : Instr} (h : decodeCommand v = .ok i) :
    i.WellFormed ∧ encode i = some (.host (hostWord 1 0 v)) := by
  obtain ⟨w, a, rfl, rfl⟩ | ⟨m, rfl, rfl⟩ := decodeCommand_ok h
  · exact encode_driveInstr w a
  · exact encode_mouseInstr m

theorem encode_of_decodeWrite {addr : Addr} {data : Word} {i : Instr} (h : decodeWrite addr data = .ok i) :
    i.WellFormed ∧ encode i = some (.host (hostWord 1 addr data)) := by
  by_cases h0 : addr = 0x0#4
  · subst h0
    exact encode_of_decodeCommand h
  · by_cases h6 : addr = 0x6#4
    · subst h6
      cases h
      exact ⟨rfl, rfl⟩
    · rw [decodeWrite_notWritable h0 h6] at h
      cases h

theorem encode_of_decode_hostWord {we : BitVec 1} {addr : Addr} {data : Word} {i : Instr}
    (h : decode (.host (hostWord we addr data)) = .ok i) :
    i.WellFormed ∧ encode i = some (.host (hostWord we addr data)) := by
  rw [decode_hostWord] at h
  obtain rfl | rfl := Machine.flag_cases we
  · exact encode_of_decodeRead h
  · exact encode_of_decodeWrite h

theorem event_source_cases (src : BitVec 2) : src = 0 ∨ src = 1 ∨ src = 2 ∨ src = 3 := by
  revert src; decide

theorem encode_of_decode_eventWord {src : BitVec 2} {ts : Word} {i : Instr}
    (h : decode (.event (eventWord src ts)) = .ok i) :
    i.WellFormed ∧ encode i = some (.event (eventWord src ts)) := by
  obtain rfl | rfl | rfl | rfl := event_source_cases src
  · rw [decode_encode (i := .edgeL ts) rfl rfl] at h
    cases h
    exact ⟨rfl, rfl⟩
  · rw [decode_encode (i := .edgeR ts) rfl rfl] at h
    cases h
    exact ⟨rfl, rfl⟩
  · by_cases hts : ts = 0
    · subst hts
      cases h
      exact ⟨rfl, rfl⟩
    · rw [decode_overflow_with_timestamp hts] at h
      cases h
  · rw [decode_event_reserved_source] at h
    cases h

/-- The converse of `decode_encode`: every word is the word of its fields, and what is read from the fields encodes
back to them. -/
theorem encode_of_decode {inp : Input} {i : Instr} (h : decode inp = .ok i) :
    i.WellFormed ∧ encode i = some inp := by
  cases inp with
  | host w =>
    rw [← hostWord_fields w] at h ⊢
    exact encode_of_decode_hostWord h
  | event w =>
    rw [← eventWord_fields w] at h ⊢
    exact encode_of_decode_eventWord h
  | service src =>
    cases h
    exact encode_serviceInstr src

/-- A service step comes from no other input than its source's turn (rule R93). -/
theorem decode_serviceInstr {inp : Input} {src : Source} (h : decode inp = .ok (serviceInstr src)) :
    inp = .service src :=
  Option.some.inj ((encode_of_decode h).2.symm.trans (encode_serviceInstr src).2)

theorem not_serviceInstr_of_decode {inp : Input} {i : Instr} (hd : decode inp = .ok i)
    (hinp : ∀ src, inp ≠ .service src) (src : Source) : i ≠ serviceInstr src := by
  rintro rfl
  exact hinp src (decode_serviceInstr hd)

theorem decodeTableWord_some {nbits w : Nat} {i : Instr} (h : decodeTableWord nbits w = some i) :
    ∃ inp, inputOfTableWord nbits w = some inp ∧ decode inp = .ok i := by
  unfold decodeTableWord at h
  split at h
  · cases h
  · split at h
    · cases h
      exact ⟨_, ‹_›, ‹_›⟩
    · cases h

end Sys2Proof

namespace Sys2Proof.Machine

open Sys2Proof.Certificates

/-! ## Refused host words -/

theorem refusedInput_of_decodeRead {addr : Addr} {v : Word} {e : DecodeError} (h : decodeRead addr v = .error e) :
    RefusedInput (.host (hostWord 0 addr v)) :=
  refusedInput_of_decode ((decode_hostWord 0 addr v).trans h)

theorem refusedInput_of_decodeWrite {addr : Addr} {v : Word} {e : DecodeError} (h : decodeWrite addr v = .error e) :
    RefusedInput (.host (hostWord 1 addr v)) :=
  refusedInput_of_decode ((decode_hostWord 1 addr v).trans h)

theorem refusedInput_read_with_data (addr : Addr) {v : Word} (hv : v ≠ 0) :
    RefusedInput (.host (hostWord 0 addr v)) :=
  refusedInput_of_decodeRead (decodeRead_of_data_ne addr hv)

theorem refusedInput_read_reserved {addr : Addr} (h : readableAddr addr = false) (v : Word) :
    RefusedInput (.host (hostWord 0 addr v)) := by
  by_cases hv : v = 0
  · subst hv
    exact refusedInput_of_decodeRead (decodeRead_reserved h)
  · exact refusedInput_read_with_data addr hv

theorem refusedInput_reserved_command {v : Word} (h : v.extractLsb' 8 8 ≠ 0 ∨ v.extractLsb' 3 1 ≠ 0 ∨
    (v.extractLsb' 4 4 ≠ 1 ∧ v.extractLsb' 4 4 ≠ 2)) : RefusedInput (.host (hostWord 1 0 v)) := by
  by_cases hz : v.extractLsb' 8 8 ≠ 0 ∨ v.extractLsb' 3 1 ≠ 0
  · exact refusedInput_of_decodeWrite (decodeCommand_zeroBits hz)
  · obtain ⟨h1, h2⟩ := (or_assoc.2 h).resolve_left hz
    exact refusedInput_of_decodeWrite (decodeCommand_reserved_op hz h1 h2)

/-! ## The outcomes of a step -/

/-- A well-formed operation answers a next state, or is the service step of a source whose flag is 0. -/
theorem exec_next_or_not_enabled {i : Instr} (hw : i.WellFormed) (s : State) :
    (∃ t, exec i s = .next t) ∨
      ∃ src, i = serviceInstr src ∧ s.flag src = 0 ∧ exec i s = .refused (.serviceNotEnabled src) := by
  by_cases hs : ∃ src, i = serviceInstr src
  · obtain ⟨src, rfl⟩ := hs
    obtain hf | hf := flag_cases (s.flag src)
    · exact .inr ⟨src, rfl, hf, (exec_serviceInstr src s).trans (serve_not_enabled hf)⟩
    · exact .inl ((exec_serviceInstr_next_iff src s).2 hf)
  · exact .inl (exec_next_of_not_service hw (fun src hi => hs ⟨src, hi⟩) s)

/-- A step that finds nothing on the agenda completes: it is idle or serves a source whose flag is 1. -/
theorem step_next_of_no_input {s : State} (h : s.agenda = []) : ∃ t, step s = .next t := by
  obtain ⟨-, hnone⟩ | ⟨src, n, hf, hsome⟩ := nextInput_unattended h
  · exact ⟨s, step_idle hnone⟩
  · rw [step_of_nextInput hsome]
    refine (exec_serviceInstr_next_iff src _).2 ?_
    cases src <;> exact hf

/-! ## The step after an input is placed -/

@[simp] theorem State.place_agenda (s : State) (inp : Input) : (s.place inp).agenda = inp :: s.agenda := by
  obtain _ | _ | src := inp
  · rfl
  · rfl
  · cases src <;> rfl

theorem State.place_service_taken (s : State) (src : Source) :
    { s.place (.service src) with agenda := s.agenda } = s.raiseFlag src := by
  cases src <;> rfl

theorem step_place {inp : Input} {i : Instr} (hd : decode inp = .ok i) (s : State) :
    step (s.place inp) = exec i { s.place inp with agenda := s.agenda } :=
  step_of_decode (s.place_agenda inp) hd

/-! ## The statements -/

/-- Settles O1: each encoding is the word of its fields, which the decoder reads back. -/
theorem encodeThenDecodeIsIdentity : Obligations.EncodeThenDecodeIsIdentity :=
  fun i hw => ⟨fun _ he => decode_encode hw he, encode_eq_none_iff i⟩

/-- Settles O2, port by port. -/
theorem decodeAcceptsOnlyEncodings : Obligations.DecodeAcceptsOnlyEncodings :=
  fun _ _ h => encode_of_decode h

/-- Settles O4, clause by clause. -/
theorem reservedEncodingsAreRefused : Obligations.ReservedEncodingsAreRefused := by
  refine ⟨?commandBits, ?driveAction, ?mouseAction, ?notWritable, ?notReadable, ?readData, ?eventSource, ?timestamp⟩
  case commandBits => exact fun v h => refusedInput_reserved_command h
  case driveAction =>
    exact ⟨refusedInput_of_decodeWrite (e := .driveAction 0x0013) rfl,
      refusedInput_of_decodeWrite (e := .driveAction 0x0017) rfl⟩
  case mouseAction =>
    exact ⟨refusedInput_of_decodeWrite (e := .mouseAction 0x0026) rfl,
      refusedInput_of_decodeWrite (e := .mouseAction 0x0027) rfl⟩
  case notWritable => exact fun addr v h0 h6 => refusedInput_of_decodeWrite (decodeWrite_notWritable h0 h6 v)
  case notReadable =>
    exact fun v => ⟨refusedInput_read_reserved rfl v, refusedInput_read_reserved rfl v,
      refusedInput_read_reserved rfl v⟩
  case readData => exact fun addr v hv => refusedInput_read_with_data addr hv
  case eventSource => exact fun ts => refusedInput_of_decode (decode_event_reserved_source ts)
  case timestamp => exact fun ts hts => refusedInput_of_decode (decode_overflow_with_timestamp hts)

/-- Settles O10: an input that decodes is a well-formed operation, which completes unless it is a service step that is
not enabled; with no input waiting, every step completes. -/
theorem everyStopIsNamed : Obligations.EveryStopIsNamed := by
  intro s
  cases ha : s.agenda with
  | nil => exact .inl (step_next_of_no_input ha)
  | cons inp rest =>
    cases hd : decode inp with
    | error e =>
      refine .inr (.inl ⟨inp, rest, e, rfl, hd, ?_⟩)
      rw [step_of_nextInput (nextInput_agenda ha), hd]
    | ok i =>
      rw [step_of_decode ha hd]
      obtain hnext | ⟨src, rfl, hf, hrefused⟩ :=
        exec_next_or_not_enabled (encode_of_decode hd).1 { s with agenda := rest }
      · exact .inl hnext
      · obtain rfl := decode_serviceInstr hd
        rw [State.flag_set_agenda] at hf
        exact .inr (.inr ⟨src, rest, rfl, hf, hrefused⟩)

/-- Settles O12: the placed input is taken off the agenda again, and only a service turn leaves a trace of its placing,
the raised flag. -/
theorem fetchedTableWordRuns : Obligations.FetchedTableWordRuns := by
  intro s nbits w i h
  obtain ⟨inp, hinp, hd⟩ := decodeTableWord_some h
  have hfetch : s.withFetchWord nbits w = s.place inp := by simp only [State.withFetchWord, hinp]
  rw [hfetch, step_place hd]
  cases inp with
  | service src =>
    cases hd
    exact .inr ⟨src, rfl, by rw [State.place_service_taken]⟩
  | host v => exact .inl ⟨not_serviceInstr_of_decode hd nofun, rfl⟩
  | event v => exact .inl ⟨not_serviceInstr_of_decode hd nofun, rfl⟩

/-- Settles O3: each listed word is the encoding of its operation, so it decodes to it. -/
theorem listedWordsDecode : Obligations.ListedWordsDecode :=
  ⟨decode_encode rfl rfl, decode_encode rfl rfl, decode_encode rfl rfl, decode_encode rfl rfl,
    decode_encode rfl rfl, decode_encode rfl rfl, decode_encode rfl rfl, decode_encode rfl rfl⟩

end Sys2Proof.Machine

/-! The bit-field utility (40_bitfield_utility.md): each bit of a `SETBIT` or `CLRBIT` result, and the laws that follow
from the bits. -/

namespace Sys2Proof.Machine

/-! ## The bits of a result -/

/-- The mask `1 << i` has bit `i` alone. -/
theorem getLsbD_bitMask {n j : Nat} (i : Nat) (hj : j < n) : (1#n <<< i).getLsbD j = decide (j = i) := by
  rw [← BitVec.twoPow_eq, BitVec.getLsbD_eq_getElem hj, BitVec.getElem_twoPow]

/-- Rule R120, bit by bit. -/
theorem getLsbD_setBit {n j : Nat} (v : BitVec n) (i : Nat) (hj : j < n) :
    (setBit v i).getLsbD j = if j = i then true else v.getLsbD j := by
  rw [setBit, BitVec.getLsbD_or, getLsbD_bitMask i hj]
  by_cases hji : j = i <;> simp [hji]

/-- Rule R121, bit by bit. -/
theorem getLsbD_clrBit {n j : Nat} (v : BitVec n) (i : Nat) (hj : j < n) :
    (clrBit v i).getLsbD j = if j = i then false else v.getLsbD j := by
  rw [clrBit, BitVec.getLsbD_and, BitVec.getLsbD_not, getLsbD_bitMask i hj]
  by_cases hji : j = i <;> simp [hji, hj]

/-! ## The operations -/

theorem exec_setbit_of_lt {n i : Nat} (hi : i < n) (v : BitVec n) (s : State) :
    exec (.setbit n v i) s = .next { s with reply := some (.bits n (setBit v i)) } := if_pos hi

theorem exec_setbit_of_le {n i : Nat} (hi : n ≤ i) (v : BitVec n) (s : State) :
    exec (.setbit n v i) s = .refused (.bitIndexOutOfRange n i) := if_neg (Nat.not_lt.2 hi)

theorem exec_clrbit_of_lt {n i : Nat} (hi : i < n) (v : BitVec n) (s : State) :
    exec (.clrbit n v i) s = .next { s with reply := some (.bits n (clrBit v i)) } := if_pos hi

theorem exec_clrbit_of_le {n i : Nat} (hi : n ≤ i) (v : BitVec n) (s : State) :
    exec (.clrbit n v i) s = .refused (.bitIndexOutOfRange n i) := if_neg (Nat.not_lt.2 hi)

/-! ## The laws of rule R122 -/

/-- The later of two writes to one bit decides it. -/
theorem clrBit_setBit_same {n : Nat} (v : BitVec n) (i : Nat) : clrBit (setBit v i) i = clrBit v i := by
  refine BitVec.eq_of_getLsbD_eq fun j hj => ?_
  rw [getLsbD_clrBit _ _ hj, getLsbD_clrBit _ _ hj, getLsbD_setBit _ _ hj]
  by_cases hji : j = i <;> simp [hji]

theorem setBit_clrBit_same {n : Nat} (v : BitVec n) (i : Nat) : setBit (clrBit v i) i = setBit v i := by
  refine BitVec.eq_of_getLsbD_eq fun j hj => ?_
  rw [getLsbD_setBit _ _ hj, getLsbD_setBit _ _ hj, getLsbD_clrBit _ _ hj]
  by_cases hji : j = i <;> simp [hji]

theorem setBit_clrBit_comm {n i k : Nat} (v : BitVec n) (hik : i ≠ k) :
    setBit (clrBit v i) k = clrBit (setBit v k) i := by
  refine BitVec.eq_of_getLsbD_eq fun j hj => ?_
  rw [getLsbD_setBit _ _ hj, getLsbD_clrBit _ _ hj, getLsbD_clrBit _ _ hj, getLsbD_setBit _ _ hj]
  by_cases hji : j = i
  · simp [hji, hik]
  · simp [hji]

/-! ## The statements -/

/-- Settles O38: the value of the reply is `setBit v i`, read bit by bit. -/
theorem setBitEffect : Obligations.SetBitEffect :=
  fun _ v i s =>
    ⟨fun hi => ⟨setBit v i, fun _ => getLsbD_setBit v i, exec_setbit_of_lt hi v s⟩, fun hi => exec_setbit_of_le hi v s⟩

/-- Settles O39: the value of the reply is `clrBit v i`, read bit by bit. -/
theorem clearBitEffect : Obligations.ClearBitEffect :=
  fun _ v i s =>
    ⟨fun hi => ⟨clrBit v i, fun _ => getLsbD_clrBit v i, exec_clrbit_of_lt hi v s⟩, fun hi => exec_clrbit_of_le hi v s⟩

/-- Settles O40: two values with the same bits are equal. -/
theorem bitFieldLaws : Obligations.BitFieldLaws :=
  fun _ v i _ => ⟨clrBit_setBit_same v i, setBit_clrBit_same v i, setBit_clrBit_comm v⟩

end Sys2Proof.Machine

/-! The PWM motor driver (41_pwm_motor_driver.md): the six `DRIVE` commands (rules R130, R131, R133). -/

namespace Sys2Proof.Machine

open Sys2Proof.Certificates

/-! ## The driver's operations -/

theorem exec_driveInstr (w : Wheel) (a : MotorStatus) (s : State) :
    exec (driveInstr w a) s = .next (drive w a s) := by
  cases w <;> cases a <;> rfl

theorem driveLeft_driveInstr (a : MotorStatus) : DriveLeft (driveInstr .left a) a := by
  intro s
  refine ⟨dutyval s.cfg s.left.duty, offCompare s.cfg, dutyval_toNat _ _, offCompare_toNat _, ?_⟩
  rw [exec_driveInstr, drive_left]

theorem driveRight_driveInstr (a : MotorStatus) : DriveRight (driveInstr .right a) a := by
  intro s
  refine ⟨dutyval s.cfg s.right.duty, offCompare s.cfg, dutyval_toNat _ _, offCompare_toNat _, ?_⟩
  rw [exec_driveInstr, drive_right]

/-! ## The statement -/

/-- Settles O19: each word is the `DRIVE` command of its wheel and action, and the operation it names is the driver's
procedure at that wheel and action. -/
theorem driveCommandsEffect : Obligations.DriveCommandsEffect :=
  ⟨⟨decode_driveCommand .left .fwd, driveLeft_driveInstr .fwd⟩,
    ⟨decode_driveCommand .left .rev, driveLeft_driveInstr .rev⟩,
    ⟨decode_driveCommand .left .stop, driveLeft_driveInstr .stop⟩,
    ⟨decode_driveCommand .right .fwd, driveRight_driveInstr .fwd⟩,
    ⟨decode_driveCommand .right .rev, driveRight_driveInstr .rev⟩,
    ⟨decode_driveCommand .right .stop, driveRight_driveInstr .stop⟩⟩

end Sys2Proof.Machine

/-! Tachometer capture (42_tach_capture.md): the edge events (rule R150), the capture services (rules R152, R153, R156)
and the countdown (rule R154). -/

namespace Sys2Proof.Machine

open Sys2Proof.Certificates

/-! ## The operations, for either wheel -/

/-- Everything `EDGE.w ts` does. -/
theorem exec_edgeInstr (w : Wheel) (ts : Word) (s : State) :
    exec (edgeInstr w ts) s = .next (s.setWheel w { s.wheel w with cap := ts, capFlag := 1 }) := by
  cases w <;> rfl

/-- Everything an enabled `CAPSVC.w` does. -/
theorem exec_captureService {w : Wheel} {s : State} (hf : (s.wheel w).capFlag = 1) :
    exec (captureService w) s = .next
      { s.setWheel w
          { s.wheel w with delta := (s.wheel w).cap - (s.wheel w).prev, prev := (s.wheel w).cap, capFlag := 0 } with
        dist := distAfter s.dist
        out := s.out ++ [.capRead w, .flagRead (capSource w), .flagWrite0 (capSource w)] } := by
  cases w with
  | left => exact exec_capsvcL hf
  | right => exact exec_capsvcR hf

theorem exec_capsvcL_not_enabled {s : State} (hf : s.left.capFlag = 0) :
    exec .capsvcL s = .refused (.serviceNotEnabled .capL) :=
  serve_not_enabled hf

theorem exec_capsvcR_not_enabled {s : State} (hf : s.right.capFlag = 0) :
    exec .capsvcR s = .refused (.serviceNotEnabled .capR) :=
  serve_not_enabled hf

theorem exec_captureService_dist {w : Wheel} {s t : State} (h : exec (captureService w) s = .next t) :
    t.dist = distAfter s.dist := by
  have hf : (s.wheel w).capFlag = 1 := by
    cases w with
    | left => exact (serve_next h).1
    | right => exact (serve_next h).1
  rw [exec_captureService hf] at h
  cases h
  rfl

/-- The subtraction of timestamps is modulo 2^16 (rule R153). -/
theorem word_sub_toNat (x y : Word) : (x - y).toNat = (x.toNat + 65536 - y.toNat) % 65536 := by
  rw [BitVec.toNat_sub]
  have hy := y.isLt
  omega

@[simp] theorem State.setWheel_setWheel (s : State) (w : Wheel) (u v : WheelUnit) :
    (s.setWheel w u).setWheel w v = s.setWheel w v := by
  cases w <;> rfl

/-! ## An edge and its service -/

/-- The state after an edge of wheel `w` at timestamp `ts` and the service of that edge. -/
def State.servicedEdge (s : State) (w : Wheel) (ts : Word) : State :=
  { s.setWheel w { s.wheel w with cap := ts, delta := ts - (s.wheel w).prev, prev := ts, capFlag := 0 } with
    dist := distAfter s.dist
    out := s.out ++ [.capRead w, .flagRead (capSource w), .flagWrite0 (capSource w)] }

/-- The edge raises the flag, so its service is enabled. -/
theorem execAll_servicedEdge (w : Wheel) (ts : Word) (ops : List Instr) (s : State) :
    execAll (edgeInstr w ts :: captureService w :: ops) s = execAll ops (s.servicedEdge w ts) := by
  have hf : ((s.setWheel w { s.wheel w with cap := ts, capFlag := 1 }).wheel w).capFlag = 1 := by
    rw [State.wheel_setWheel_self]
  rw [execAll_cons (exec_edgeInstr w ts s), execAll_cons (exec_captureService hf)]
  simp [State.servicedEdge]

@[simp] theorem State.servicedEdge_wheel_self (s : State) (w : Wheel) (ts : Word) :
    (s.servicedEdge w ts).wheel w =
      { s.wheel w with cap := ts, delta := ts - (s.wheel w).prev, prev := ts, capFlag := 0 } := by
  cases w <;> rfl

@[simp] theorem State.servicedEdge_dist (s : State) (w : Wheel) (ts : Word) :
    (s.servicedEdge w ts).dist = distAfter s.dist := rfl

/-- A serviced edge changes no motor status (rule R154). -/
theorem State.servicedEdge_mstat (s : State) (w w' : Wheel) (ts : Word) :
    ((s.servicedEdge w ts).wheel w').mstat = (s.wheel w').mstat := by
  cases w <;> cases w' <;> rfl

theorem State.servicedEdge_mouseStat (s : State) (w : Wheel) (ts : Word) :
    (s.servicedEdge w ts).mouseStat = s.mouseStat :=
  s.setWheel_mouseStat w _

theorem State.servicedEdge_tofFlag (s : State) (w : Wheel) (ts : Word) :
    (s.servicedEdge w ts).tofFlag = s.tofFlag :=
  s.setWheel_tofFlag w _

/-! ## Edges, each with its service -/

/-- The state after a list of edges, each serviced before the next. -/
def State.servicedEdges (s : State) (edges : List (Wheel × Word)) : State :=
  edges.foldl (fun t e => t.servicedEdge e.1 e.2) s

theorem execAll_servicedEdges (edges : List (Wheel × Word)) (s : State) :
    execAll (edges.flatMap fun p => [edgeInstr p.1 p.2, captureService p.1]) s = .next (s.servicedEdges edges) := by
  induction edges generalizing s with
  | nil => rfl
  | cons e edges ih => exact (execAll_servicedEdge e.1 e.2 _ s).trans (ih _)

theorem State.servicedEdges_dist_toNat (edges : List (Wheel × Word)) (s : State) :
    (s.servicedEdges edges).dist.toNat = s.dist.toNat - edges.length := by
  induction edges generalizing s with
  | nil => rfl
  | cons e edges ih =>
    calc ((s.servicedEdge e.1 e.2).servicedEdges edges).dist.toNat
      _ = (s.servicedEdge e.1 e.2).dist.toNat - edges.length := ih _
      _ = s.dist.toNat - 1 - edges.length := by rw [State.servicedEdge_dist, distAfter_toNat]
      _ = s.dist.toNat - (e :: edges).length := by rw [List.length_cons]; omega

/-- What one serviced edge keeps, any number of them keeps. -/
theorem State.servicedEdges_keeps {α : Type} {f : State → α}
    (hf : ∀ (s : State) (w : Wheel) (ts : Word), f (s.servicedEdge w ts) = f s)
    (edges : List (Wheel × Word)) (s : State) : f (s.servicedEdges edges) = f s := by
  induction edges generalizing s with
  | nil => rfl
  | cons e edges ih => exact (ih _).trans (hf s e.1 e.2)

/-! ## The countdown of a run -/

/-- How many capture services a list of operations holds, of both wheels together (rule R154). -/
def captureCount (ops : List Instr) : Nat := ops.count .capsvcL + ops.count .capsvcR

theorem captureCount_cons (i : Instr) (ops : List Instr) :
    captureCount (i :: ops) = captureCount [i] + captureCount ops := by
  have hL := List.count_append (a := Instr.capsvcL) (l₁ := [i]) (l₂ := ops)
  have hR := List.count_append (a := Instr.capsvcR) (l₁ := [i]) (l₂ := ops)
  rw [List.singleton_append] at hL hR
  unfold captureCount
  omega

theorem captureCount_captureService (w : Wheel) : captureCount [captureService w] = 1 := by
  cases w <;> rfl

theorem captureCount_other {i : Instr} (hi : ∀ w, i ≠ captureService w) : captureCount [i] = 0 := by
  have hL : [i].count .capsvcL = 0 := List.count_eq_zero.2 (mt List.mem_singleton.1 (hi .left).symm)
  have hR : [i].count .capsvcR = 0 := List.count_eq_zero.2 (mt List.mem_singleton.1 (hi .right).symm)
  rw [captureCount, hL, hR]

/-- One operation but a load counts `DIST` down by its capture services. -/
theorem exec_dist_toNat {i : Instr} (hload : ∀ v, i ≠ .lddist v) {s t : State} (h : exec i s = .next t) :
    t.dist.toNat = s.dist.toNat - captureCount [i] := by
  by_cases hw : ∃ w, i = captureService w
  · obtain ⟨w, rfl⟩ := hw
    rw [exec_captureService_dist h, distAfter_toNat, captureCount_captureService]
  · have hsame : t.dist = s.dist := by
      by_contra hne
      obtain hcap | ⟨v, hv⟩ := (effect_of_exec h).dist_writer hne
      · exact hw hcap
      · exact hload v hv
    rw [hsame, captureCount_other (not_exists.1 hw), Nat.sub_zero]

theorem execAll_dist_toNat {ops : List Instr} (hload : ∀ v, .lddist v ∉ ops) {s t : State}
    (h : execAll ops s = .next t) : t.dist.toNat = s.dist.toNat - captureCount ops := by
  induction ops generalizing s with
  | nil => cases h; rfl
  | cons i ops ih =>
    obtain ⟨s', hfirst, hrest⟩ := execAll_cons_next h
    have hi : ∀ v, i ≠ .lddist v := fun v => (List.ne_of_not_mem_cons (hload v)).symm
    have hops : ∀ v, .lddist v ∉ ops := fun v => List.not_mem_of_not_mem_cons (hload v)
    rw [ih hops hrest, exec_dist_toNat hi hfirst, captureCount_cons i ops, Nat.sub_sub]

/-! ## The statements -/

/-- Settles O21: source codes 0 and 1 name the two edges, and each writes the timestamp and the flag of its wheel. -/
theorem edgeEventsEffect : Obligations.EdgeEventsEffect :=
  fun ts s =>
    ⟨⟨decode_encode (i := .edgeL ts) rfl rfl, exec_edgeInstr .left ts s⟩,
      ⟨decode_encode (i := .edgeR ts) rfl rfl, exec_edgeInstr .right ts s⟩⟩

/-- Settles O22: the second edge writes both registers that the first one wrote. -/
theorem overrunKeepsOnlySecondEdge : Obligations.OverrunKeepsOnlySecondEdge := by
  intro w ts₁ ts₂ s
  refine ⟨_, ?_, execAll_cons (exec_edgeInstr w ts₂ s)⟩
  rw [execAll_cons (exec_edgeInstr w ts₁ s), execAll_cons (exec_edgeInstr w ts₂ _), State.wheel_setWheel_self,
    State.setWheel_setWheel]
  rfl

/-- Settles O23: the delta is the difference of two words and the new distance is `distAfter`; with the flag at 0 the
shared form of a service step refuses. -/
theorem captureServicesEffect : Obligations.CaptureServicesEffect :=
  ⟨⟨rfl, rfl⟩,
    fun _ => ⟨fun hf => ⟨_, _, word_sub_toNat _ _, distAfter_toNat _, exec_capsvcL hf⟩, exec_capsvcL_not_enabled⟩,
    fun _ => ⟨fun hf => ⟨_, _, word_sub_toNat _ _, distAfter_toNat _, exec_capsvcR hf⟩, exec_capsvcR_not_enabled⟩⟩

/-- Settles O24: each operation of a run counts `DIST` down by its own capture services; each serviced edge counts it
down once and keeps the statuses and the overflow flag. -/
theorem countdownSaturatesAtZero : Obligations.CountdownSaturatesAtZero := by
  refine ⟨fun ops s t hload hrun => execAll_dist_toNat hload hrun, fun edges s => ?_⟩
  exact ⟨s.servicedEdges edges, execAll_servicedEdges edges s, State.servicedEdges_dist_toNat edges s,
    State.servicedEdges_keeps (f := fun s => s.left.mstat) (fun s w => s.servicedEdge_mstat w .left) edges s,
    State.servicedEdges_keeps (f := fun s => s.right.mstat) (fun s w => s.servicedEdge_mstat w .right) edges s,
    State.servicedEdges_keeps State.servicedEdge_mouseStat edges s,
    State.servicedEdges_keeps State.servicedEdge_tofFlag edges s⟩

/-- Settles O26: the previous timestamp is 0 at reset, so the difference is the timestamp itself. -/
theorem firstDeltaIsRawTimestamp : Obligations.FirstDeltaIsRawTimestamp := by
  intro c w ts
  have hprev : ((State.resetOf c).wheel w).prev = 0 := by cases w <;> rfl
  refine ⟨(State.resetOf c).servicedEdge w ts, execAll_servicedEdge w ts [] _, ?_, ?_, rfl⟩
  · rw [State.servicedEdge_wheel_self, hprev]
    exact BitVec.sub_zero ts
  · rw [State.servicedEdge_wheel_self]

end Sys2Proof.Machine

/-! The speed-balancing controller (43_speed_balance.md): the overflow event (rule R170), the service step (rules R172 to
R177) and the laws of a correction (rule R178). -/

namespace Sys2Proof.Machine

/-! ## The operations -/

/-- Everything `TOF` does. -/
theorem exec_tof (s : State) : exec .tof s = .next { s with tofFlag := 1 } := rfl

theorem exec_ctlsvc_enabled {s : State} (hf : s.tofFlag = 1) :
    exec .ctlsvc s = .next ((balanceBody s).clearFlag .tof) :=
  serve_enabled hf

theorem gateOpen_eq_false_iff (s : State) : gateOpen s = false ↔ s.left.mstat = .stop ∨ s.right.mstat = .stop := by
  rw [← Bool.not_eq_true, gateOpen_iff]
  tauto

/-! ## The duty cycles after a service -/

theorem exec_ctlsvc_duty_of_gateOpen {s t : State} (hg : gateOpen s = true) (h : exec .ctlsvc s = .next t) :
    t.left.duty = clamp s.cfg (corrected s).1 ∧ t.right.duty = clamp s.cfg (corrected s).2 := by
  obtain ⟨-, rfl⟩ := serve_next h
  rw [balanceServed_open s hg]
  exact ⟨rfl, rfl⟩

theorem exec_ctlsvc_duty_of_gateClosed {s t : State} (hg : gateOpen s = false) (h : exec .ctlsvc s = .next t) :
    t.left.duty = s.left.duty ∧ t.right.duty = s.right.duty := by
  obtain ⟨-, rfl⟩ := serve_next h
  rw [balanceServed_closed s hg]
  exact ⟨rfl, rfl⟩

/-! ## The clamp -/

theorem clamp_toNat_of_mem {c : Config} {x : Int} (hmin : (c.raw.pwMin : Int) ≤ x) (hmax : x ≤ c.raw.pwMax) :
    ((clamp c x).toNat : Int) = x := by
  rw [clamp_toNat, nearest, min_eq_right hmax, max_eq_right hmin]

theorem clamp_toNat_of_le {c : Config} {x : Int} (h : x ≤ c.raw.pwMin) : (clamp c x).toNat = c.raw.pwMin := by
  have hclamp := clamp_toNat c x
  rw [nearest, max_eq_left ((min_le_right _ _).trans h)] at hclamp
  exact Int.ofNat_inj.1 hclamp

theorem clamp_toNat_of_ge {c : Config} {x : Int} (h : (c.raw.pwMax : Int) ≤ x) : (clamp c x).toNat = c.raw.pwMax := by
  have hclamp := clamp_toNat c x
  have hrange := clamp_mem_range c x
  rw [nearest, min_eq_left h] at hclamp
  omega

/-! ## The correction -/

/-- What one duty cycle is to lose, the other is to gain, and it is at most `STEP`. -/
theorem wanted_eq_shift (dl dr l r : Nat) :
    ∃ e : Int, -2 ≤ e ∧ e ≤ 2 ∧ wanted dl dr l r = ((l : Int) + e, (r : Int) - e) := by
  unfold wanted
  split
  · exact ⟨-2, by decide, by decide, rfl⟩
  · split
    · exact ⟨2, by decide, by decide, rfl⟩
    · exact ⟨0, by decide, by decide, by rw [add_zero, sub_zero]⟩

theorem corrected_of_right_delta_lt {s : State} (h : s.right.delta.toNat < s.left.delta.toNat) :
    corrected s = ((s.left.duty.toNat : Int) - 2, (s.right.duty.toNat : Int) + 2) :=
  if_pos h

theorem corrected_of_left_delta_lt {s : State} (h : s.left.delta.toNat < s.right.delta.toNat) :
    corrected s = ((s.left.duty.toNat : Int) + 2, (s.right.duty.toNat : Int) - 2) :=
  (if_neg h.le.not_gt).trans (if_pos h)

/-- Of a value in range, the clamp takes back part of a change and adds nothing to it. -/
theorem clamp_toNat_between {c : Config} {l : Nat} (hl : c.raw.pwMin ≤ l ∧ l ≤ c.raw.pwMax) (e : Int) :
    min (l : Int) (l + e) ≤ (clamp c (l + e)).toNat ∧ ((clamp c (l + e)).toNat : Int) ≤ max (l : Int) (l + e) := by
  rw [clamp_toNat, nearest]
  omega

/-- Opposite changes by at most 2, each in part taken back by the clamp, move the sum by at most 2. -/
theorem clamp_sum_within_two {c : Config} {l r : Nat} (hl : c.raw.pwMin ≤ l ∧ l ≤ c.raw.pwMax)
    (hr : c.raw.pwMin ≤ r ∧ r ≤ c.raw.pwMax) {e : Int} (hlow : -2 ≤ e) (hhigh : e ≤ 2) :
    (l + r : Int) - 2 ≤ (clamp c (l + e)).toNat + (clamp c (r - e)).toNat ∧
      ((clamp c (l + e)).toNat : Int) + (clamp c (r - e)).toNat ≤ l + r + 2 := by
  have hleft := clamp_toNat_between hl e
  have hright := clamp_toNat_between hr (-e)
  rw [← sub_eq_add_neg] at hright
  omega

/-! ## The statements -/

/-- Settles O28: an enabled service is `balanceServed_open` or `balanceServed_closed` as the gate says, with the model's
clamp, on value and off value as the numbers the statement asks for; with the flag at 0 it is refused. -/
theorem balanceServiceEffect : Obligations.BalanceServiceEffect := by
  refine ⟨rfl, fun s => ⟨fun hf hl hr => ?_, fun hf hstop => ?_, exec_ctlsvc_not_enabled⟩⟩
  · refine ⟨clamp s.cfg (corrected s).1, clamp s.cfg (corrected s).2, _, _, offCompare s.cfg, clamp_toNat _ _,
      clamp_toNat _ _, dutyval_toNat _ _, dutyval_toNat _ _, offCompare_toNat _, ?_⟩
    rw [exec_ctlsvc_enabled hf, balanceServed_open s ((gateOpen_iff s).2 ⟨hl, hr⟩)]
    rfl
  · rw [exec_ctlsvc_enabled hf, balanceServed_closed s ((gateOpen_eq_false_iff s).2 hstop)]

/-- Settles O29: both duty cycles come out of the clamp. -/
theorem correctionLandsInRange : Obligations.CorrectionLandsInRange := by
  intro s hf hl hr
  have hserved := exec_ctlsvc_enabled hf
  obtain ⟨hleft, hright⟩ := exec_ctlsvc_duty_of_gateOpen ((gateOpen_iff s).2 ⟨hl, hr⟩) hserved
  refine ⟨_, hserved, fun w => ?_⟩
  cases w with
  | left => exact hleft ▸ clamp_mem_range s.cfg _
  | right => exact hright ▸ clamp_mem_range s.cfg _

/-- Settles O30: the wanted changes are opposite and at most 2, and the clamp adds nothing to either; a value in range it
leaves as it is. -/
theorem correctionConservesSum : Obligations.CorrectionConservesSum := by
  intro s t hinv h
  obtain ⟨⟨hl, -⟩, ⟨hr, -⟩⟩ := hinv
  cases hg : gateOpen s with
  | false =>
    obtain ⟨hleft, hright⟩ := exec_ctlsvc_duty_of_gateClosed hg h
    rw [hleft, hright]
    exact ⟨by omega, fun _ _ _ _ => rfl⟩
  | true =>
    obtain ⟨hleft, hright⟩ := exec_ctlsvc_duty_of_gateOpen hg h
    obtain ⟨e, hlow, hhigh, hwanted⟩ :=
      wanted_eq_shift s.left.delta.toNat s.right.delta.toNat s.left.duty.toNat s.right.duty.toNat
    rw [corrected_eq_wanted] at hleft hright
    simp only [hleft, hright, hwanted]
    refine ⟨clamp_sum_within_two hl hr hlow hhigh, fun hminL hmaxL hminR hmaxR => ?_⟩
    rw [clamp_toNat_of_mem hminL hmaxL, clamp_toNat_of_mem hminR hmaxR]
    ring

/-- Settles O31: the correction would push both values out of the range, and the clamp returns the ends; a closed gate
changes no duty cycle. -/
theorem correctionFixedPoints : Obligations.CorrectionFixedPoints := by
  intro s t h
  cases hg : gateOpen s with
  | false =>
    have hsame := exec_ctlsvc_duty_of_gateClosed hg h
    exact ⟨fun _ _ _ => hsame, fun _ _ _ => hsame⟩
  | true =>
    obtain ⟨hleft, hright⟩ := exec_ctlsvc_duty_of_gateOpen hg h
    refine ⟨fun hmin hmax hlt => ?_, fun hmax hmin hlt => ?_⟩
    · rw [hleft, hright, corrected_of_right_delta_lt hlt]
      exact ⟨BitVec.eq_of_toNat_eq ((clamp_toNat_of_le (by omega)).trans hmin.symm),
        BitVec.eq_of_toNat_eq ((clamp_toNat_of_ge (by omega)).trans hmax.symm)⟩
    · rw [hleft, hright, corrected_of_left_delta_lt hlt]
      exact ⟨BitVec.eq_of_toNat_eq ((clamp_toNat_of_ge (by omega)).trans hmax.symm),
        BitVec.eq_of_toNat_eq ((clamp_toNat_of_le (by omega)).trans hmin.symm)⟩

/-- Settles O27: source code 2 with timestamp 0 names the overflow, which writes its flag alone. -/
theorem overflowEventEffect : Obligations.OverflowEventEffect :=
  ⟨decode_encode (i := .tof) rfl rfl, exec_tof⟩

end Sys2Proof.Machine

/-! The mouse-action dispatcher (44_mouse_dispatch.md): the six `MOUSE` commands (rules R190 to R192) and
their idempotence (rule R193). -/

namespace Sys2Proof.Machine

open Sys2Proof.Certificates

/-! ## The six commands are one operation -/

theorem exec_mouseInstr (m : MouseStatus) (s : State) : exec (mouseInstr m) s = .next (dispatch m s) := by
  cases m <;> rfl

theorem mouseEffect_mouseInstr (m : MouseStatus) : MouseEffect (mouseInstr m) m (target m).1 (target m).2 := by
  intro s
  refine ⟨dutyval s.cfg s.left.duty, dutyval s.cfg s.right.duty, offCompare s.cfg, dutyval_toNat _ _,
    dutyval_toNat _ _, offCompare_toNat _, ?_⟩
  rw [exec_mouseInstr, dispatch_eq]

/-! ## What a directive leaves behind -/

/-- The block stands as `MOUSE m` leaves it: both wheels at their targets (rule R192), and `MOUSESTAT` at `m`. -/
abbrev State.Follows (m : MouseStatus) (s : State) : Prop :=
  s.left.mstat = (target m).1 ∧ s.right.mstat = (target m).2 ∧ s.mouseStat = m

theorem WheelUnit.mstat_driven_unless (u : WheelUnit) (a : MotorStatus) (on off : Word) :
    (if u.mstat = a then u else u.driven a on off).mstat = a := by
  split
  · assumption
  · rfl

theorem dispatch_follows (m : MouseStatus) (s : State) : (dispatch m s).Follows m := by
  rw [dispatch_eq]
  exact ⟨WheelUnit.mstat_driven_unless .., WheelUnit.mstat_driven_unless .., rfl⟩

/-- None of the three comparisons of rule R191 finds a difference, so nothing is driven and nothing is written. -/
theorem State.Follows.dispatch_self {m : MouseStatus} {s : State} (h : s.Follows m) : dispatch m s = s := by
  obtain ⟨hl, hr, hm⟩ := h
  have hleft : driveIfChanged .left (target m).1 s = s := if_neg (not_not_intro hl)
  have hright : driveIfChanged .right (target m).2 s = s := if_neg (not_not_intro hr)
  have hmouse : noteMouse m s = s := if_neg (not_not_intro hm)
  rw [dispatch, hleft, hright, hmouse]

theorem State.Follows.exec_mouseInstr_self {m : MouseStatus} {s : State} (h : s.Follows m) :
    exec (mouseInstr m) s = .next s := by
  rw [exec_mouseInstr, h.dispatch_self]

/-! ## Who can disturb it -/

theorem exec_keeps_statuses {i : Instr} {s t : State} (hdrive : ∀ w a, i ≠ driveInstr w a)
    (hmouse : ∀ m, i ≠ mouseInstr m) (h : exec i s = .next t) :
    (∀ w, (t.wheel w).mstat = (s.wheel w).mstat) ∧ t.mouseStat = s.mouseStat := by
  refine ⟨fun w => of_not_not fun hne => ?_, of_not_not fun hne => ?_⟩
  · obtain ⟨a, hi⟩ | ⟨m, hi⟩ := (effect_of_exec h).mstat_writer hne
    · exact hdrive w a hi
    · exact hmouse m hi
  · obtain ⟨m, hi⟩ := (effect_of_exec h).mouseStat_writer hne
    exact hmouse m hi

theorem State.Follows.of_exec {m : MouseStatus} {i : Instr} {s t : State} (hs : s.Follows m)
    (hdrive : ∀ w a, i ≠ driveInstr w a) (hmouse : ∀ m', i ≠ mouseInstr m')
    (h : exec i s = .next t) : t.Follows m := by
  obtain ⟨hl, hr, hm⟩ := hs
  obtain ⟨hmstat, hmouseStat⟩ := exec_keeps_statuses hdrive hmouse h
  exact ⟨(hmstat .left).trans hl, (hmstat .right).trans hr, hmouseStat.trans hm⟩

/-! ## The statements -/

/-- Settles O33: each word is the `MOUSE` command of its action, and the operation it names is the dispatcher with that
action's targets. -/
theorem mouseCommandsEffect : Obligations.MouseCommandsEffect :=
  ⟨⟨decode_mouseCommand .fwd, mouseEffect_mouseInstr .fwd⟩,
    ⟨decode_mouseCommand .rev, mouseEffect_mouseInstr .rev⟩,
    ⟨decode_mouseCommand .stop, mouseEffect_mouseInstr .stop⟩,
    ⟨decode_mouseCommand .turnLeft, mouseEffect_mouseInstr .turnLeft⟩,
    ⟨decode_mouseCommand .turnRight, mouseEffect_mouseInstr .turnRight⟩,
    ⟨decode_mouseCommand .turnAround, mouseEffect_mouseInstr .turnAround⟩⟩

/-- Settles O34: a dispatch leaves a state that follows its action, every state that follows it is a fixed point, and
operations that write no status keep a state following it. -/
theorem mouseIsIdempotent : Obligations.MouseIsIdempotent := by
  intro m s
  obtain ⟨hl, hr, hm⟩ := dispatch_follows m s
  refine ⟨dispatch m s, exec_mouseInstr m s, ?_, (dispatch_follows m s).exec_mouseInstr_self,
    fun u hul hur hum => ?_, fun ops u hops hrun => ?_⟩
  · rw [hl, hr]
    cases m <;> rfl
  · exact State.Follows.exec_mouseInstr_self ⟨hul.trans hl, hur.trans hr, hum.trans hm⟩
  · have hu : u.Follows m := execAll_invariant (P := State.Follows m)
      (fun i hi _ _ hs => hs.of_exec (hops i hi).1 (hops i hi).2) (dispatch_follows m s) hrun
    exact hu.exec_mouseInstr_self

end Sys2Proof.Machine

/-! Host register access (45_host_register_access.md): `RD` (rules R210, R212), `LDDIST` (rule R214) and the command
register (rule R215). -/

namespace Sys2Proof

/-! ## The command register -/

/-- The command words of rule R97: six of `DRIVE`, then six of `MOUSE`. -/
def commandWords : List Word :=
  [0x0010#16, 0x0011#16, 0x0012#16, 0x0014#16, 0x0015#16, 0x0016#16,
    0x0020#16, 0x0021#16, 0x0022#16, 0x0023#16, 0x0024#16, 0x0025#16]

theorem driveCommand_mem_commandWords (w : Wheel) (a : MotorStatus) : driveCommand w a ∈ commandWords := by
  cases w <;> cases a <;> decide

theorem mouseCommand_mem_commandWords (m : MouseStatus) : mouseCommand m ∈ commandWords := by
  cases m <;> decide

theorem decodeCommand_of_mem_commandWords {v : Word} (h : v ∈ commandWords) : ∃ i, decodeCommand v = .ok i := by
  unfold commandWords at h
  fin_cases h <;> exact ⟨_, rfl⟩

theorem mem_commandWords_of_decodeCommand {v : Word} {i : Instr} (h : decodeCommand v = .ok i) :
    v ∈ commandWords := by
  obtain ⟨w, a, -, rfl⟩ | ⟨m, -, rfl⟩ := decodeCommand_ok h
  · exact driveCommand_mem_commandWords w a
  · exact mouseCommand_mem_commandWords m

/-- A write to address 0x0 is read as a command word. -/
theorem decode_write_command (v : Word) : decode (.host (hostWord 1 0 v)) = decodeCommand v :=
  decode_hostWord 1 0 v

/-! ## The reserved addresses -/

theorem readableAddr_iff (addr : Addr) : readableAddr addr = true ↔ addr ∉ [0x7#4, 0xE#4, 0xF#4] := by
  simp [readableAddr, and_assoc]

theorem readableAddr_eq_false_iff (addr : Addr) :
    readableAddr addr = false ↔ addr ∈ [0x7#4, 0xE#4, 0xF#4] := by
  rw [← Bool.not_eq_true, readableAddr_iff, not_not]

end Sys2Proof

namespace Sys2Proof.Machine

open Sys2Proof.Certificates

/-! ## The operations -/

theorem reads_of_regRead {addr : Addr} {s : State} {v : Word} (h : regRead addr s = some v) : Reads s addr v := by
  simp only [Reads, exec, execRd, h, State.giveReply]

/-- A duty cycle is read with zeros above its 8 bits (rule R210). -/
theorem reads_duty {addr : Addr} {s : State} {d : Duty} (h : regRead addr s = some (d.setWidth 16)) :
    Reads s addr (BitVec.ofNat 16 d.toNat) := by
  rw [BitVec.ofNat_toNat]
  exact reads_of_regRead h

theorem exec_rd_of_not_readable {addr : Addr} (h : readableAddr addr = false) (s : State) :
    exec (.rd addr) s = .refused (.notReadable addr) := by
  have hnone : regRead addr s = none := by
    rw [← Option.not_isSome_iff_eq_none, regRead_isSome, h]
    exact Bool.false_ne_true
  simp only [exec, execRd, hnone]

/-- Everything `LDDIST v` does. -/
theorem exec_lddist (v : Word) (s : State) : exec (.lddist v) s = .next { s with dist := v } := rfl

/-! ## The statements -/

/-- Settles O5: a write to `CMD` is read as a command word, and the command words that decode are those of rule R97. -/
theorem commandRegisterTakesTwelveWords : Obligations.CommandRegisterTakesTwelveWords := by
  intro v
  constructor
  · rintro ⟨i, h⟩
    exact mem_commandWords_of_decodeCommand ((decode_write_command v).symm.trans h)
  · intro h
    obtain ⟨i, hi⟩ := decodeCommand_of_mem_commandWords h
    exact ⟨i, (decode_write_command v).trans hi⟩

/-- Settles O35: the table of rule R210 row by row, the `STATUS` row by its number; a reserved address has no row. -/
theorem readsReturnRegisters : Obligations.ReadsReturnRegisters := by
  refine ⟨fun addr h => decode_encode (i := .rd addr) ((readableAddr_iff addr).2 h) rfl, fun s => ?_⟩
  exact ⟨reads_of_regRead rfl, ⟨s.statusWord, reads_status s, s.statusWord_toNat⟩,
    reads_duty rfl, reads_duty rfl, reads_of_regRead rfl, reads_of_regRead rfl, reads_of_regRead rfl,
    reads_of_regRead rfl, reads_of_regRead rfl, reads_of_regRead rfl, reads_of_regRead rfl,
    reads_of_regRead rfl, reads_of_regRead rfl,
    fun addr h => exec_rd_of_not_readable ((readableAddr_eq_false_iff addr).2 h) s⟩

/-- Settles O37: the word is the encoding of `LDDIST v`. -/
theorem distanceLoadEffect : Obligations.DistanceLoadEffect :=
  fun v s => ⟨decode_encode (i := .lddist v) rfl rfl, exec_lddist v s⟩

end Sys2Proof.Machine

/-! Interrupts (60_exceptions.md): no pending event is lost (rule R235), and a block left alone serves what is pending
(rules R236, R237) and then is idle (rules R246, R247). -/

namespace Sys2Proof

theorem serviceInstr_injective : Function.Injective serviceInstr :=
  fun src _ h => Input.service.inj (decode_serviceInstr (inp := .service src) (congrArg Except.ok h))

theorem edgeInstr_ne_serviceInstr (w : Wheel) (ts : Word) (src : Source) : edgeInstr w ts ≠ serviceInstr src := by
  cases w <;> cases src <;> nofun

theorem tof_ne_serviceInstr (src : Source) : Instr.tof ≠ serviceInstr src := by
  cases src <;> nofun

end Sys2Proof

namespace Sys2Proof.Machine

/-! ## The flag of a source -/

@[simp] theorem State.flag_writeFlag_self (s : State) (src : Source) (v : BitVec 1) :
    (s.writeFlag src v).flag src = v := by
  cases src <;> rfl

/-- No service step raises a flag, and only its own clears it (rules R29, R232). -/
theorem Effect.flag_writer {i : Instr} {s t : State} (h : Effect i s t) {src : Source}
    (hne : t.flag src ≠ s.flag src) :
    (t.flag src = 1 ∧ ∀ src', i ≠ serviceInstr src') ∨ (t.flag src = 0 ∧ i = serviceInstr src) := by
  cases src with
  | capL =>
    refine (h.capFlag_writer (w := .left) hne).imp_left ?_
    rintro ⟨hone, ts, rfl⟩
    exact ⟨hone, edgeInstr_ne_serviceInstr .left ts⟩
  | capR =>
    refine (h.capFlag_writer (w := .right) hne).imp_left ?_
    rintro ⟨hone, ts, rfl⟩
    exact ⟨hone, edgeInstr_ne_serviceInstr .right ts⟩
  | tof =>
    refine (h.tofFlag_writer hne).imp_left ?_
    rintro ⟨hone, rfl⟩
    exact ⟨hone, tof_ne_serviceInstr⟩

theorem exec_keeps_flag_one {i : Instr} {src : Source} (hi : i ≠ serviceInstr src) {s t : State}
    (hs : s.flag src = 1) (h : exec i s = .next t) : t.flag src = 1 := by
  by_cases hsame : t.flag src = s.flag src
  · exact hsame.trans hs
  · obtain ⟨hone, -⟩ | ⟨-, hservice⟩ := (effect_of_exec h).flag_writer hsame
    · exact hone
    · exact absurd hservice hi

theorem exec_serviceInstr_flag_self {src : Source} {s t : State} (h : exec (serviceInstr src) s = .next t) :
    t.flag src = 0 := by
  rw [exec_serviceInstr] at h
  rw [(serve_next h).2, State.clearFlag_eq, State.flag_writeFlag_self]

theorem exec_serviceInstr_flag_ne {src src' : Source} (hsrc : src' ≠ src) {s t : State}
    (h : exec (serviceInstr src) s = .next t) : t.flag src' = s.flag src' := by
  by_contra hne
  obtain ⟨-, hevent⟩ | ⟨-, hservice⟩ := (effect_of_exec h).flag_writer hne
  · exact hevent src rfl
  · exact hsrc (serviceInstr_injective hservice).symm

/-! ## The sources that are pending -/

theorem flag_ne_one_iff (x : BitVec 1) : x ≠ 1 ↔ x = 0 := by
  revert x; decide

theorem State.quiescent_iff_flag (s : State) : s.Quiescent ↔ ∀ src, s.flag src ≠ 1 := by
  simp only [flag_ne_one_iff]
  constructor
  · rintro ⟨hl, hr, htof⟩ src
    cases src with
    | capL => exact hl
    | capR => exact hr
    | tof => exact htof
  · intro h
    exact ⟨h .capL, h .capR, h .tof⟩

theorem State.quiescent_iff_pendingSources (s : State) : s.Quiescent ↔ s.pendingSources = [] := by
  simp only [s.quiescent_iff_flag, List.eq_nil_iff_forall_not_mem, mem_pendingSources, ne_eq]

theorem State.pendingSources_length_le_three (s : State) : s.pendingSources.length ≤ 3 :=
  List.length_filter_le _ _

/-- A service step takes its own source out of the pending ones. -/
theorem exec_serviceInstr_pendingSources {src : Source} {s t : State} (h : exec (serviceInstr src) s = .next t) :
    t.pendingSources = s.pendingSources.filter (· ≠ src) := by
  have henabled (src' : Source) : t.enabled src' = (decide (src' ≠ src) && s.enabled src') := by
    by_cases hsrc : src' = src
    · subst hsrc
      simp [State.enabled, exec_serviceInstr_flag_self h]
    · simp [State.enabled, exec_serviceInstr_flag_ne hsrc h, hsrc]
  rw [State.pendingSources, State.pendingSources, List.filter_filter]
  exact List.filter_congr fun src' _ => henabled src'

/-! ## The step of a block left alone -/

/-- With no input waiting, a step is idle, or it serves a pending source. -/
theorem step_unattended {s : State} (h : s.agenda = []) :
    (s.Quiescent ∧ step s = .next s) ∨
      ∃ src n, s.flag src = 1 ∧ step s = exec (serviceInstr src) { s with draws := n } := by
  obtain ⟨hflags, hnone⟩ | ⟨src, n, hf, hsome⟩ := nextInput_unattended h
  · exact .inl ⟨s.quiescent_iff_flag.2 hflags, step_idle hnone⟩
  · exact .inr ⟨src, n, hf, step_of_nextInput hsome⟩

/-- With no input waiting, each step leaves one pending source fewer, until none is left. -/
theorem step_unattended_pendingSources {s : State} (h : s.agenda = []) :
    ∃ t, step s = .next t ∧ t.agenda = [] ∧ t.pendingSources.length ≤ s.pendingSources.length - 1 := by
  obtain ⟨hq, hstep⟩ | ⟨src, n, hf, hstep⟩ := step_unattended h
  · refine ⟨s, hstep, h, ?_⟩
    rw [s.quiescent_iff_pendingSources.1 hq]
    rfl
  · obtain ⟨t, ht⟩ := (exec_serviceInstr_next_iff src { s with draws := n }).2 hf
    refine ⟨t, hstep.trans ht, (effect_of_exec ht).agenda_eq.trans h, Nat.le_sub_one_of_lt ?_⟩
    rw [exec_serviceInstr_pendingSources ht]
    refine List.length_filter_lt_length_iff_exists.2 ⟨src, ?_, by simp⟩
    exact (mem_pendingSources s src).2 hf

theorem run_succ_of_step {M : Host.Core} {s t : M.State} (h : M.step s = .next t) (n : Nat) :
    M.run (n + 1) s = M.run n t := by
  rw [Host.Core.run, h]

/-- As many steps as sources are pending suffice. -/
theorem run_unattended_quiescent (n : Nat) {s : State} (h : s.agenda = []) (hn : s.pendingSources.length ≤ n) :
    ∃ t, Host.Core.run core n s = .next t ∧ State.Quiescent t := by
  induction n generalizing s with
  | zero => exact ⟨s, rfl, s.quiescent_iff_pendingSources.2 (List.eq_nil_of_length_eq_zero (Nat.le_zero.1 hn))⟩
  | succ n ih =>
    obtain ⟨s', hstep, ha, hfewer⟩ := step_unattended_pendingSources h
    rw [run_succ_of_step (M := core) hstep]
    exact ih ha (by omega)

/-! ## The statements -/

/-- Settles O8: a block that is not quiescent has no idle step. -/
theorem unattendedStepServesPendingSource : Obligations.UnattendedStepServesPendingSource :=
  fun _ ha hpending => (step_unattended ha).resolve_left fun hidle => hpending hidle.1

/-- Settles O11: there are three sources, and each step leaves one pending source fewer. -/
theorem unattendedBlockIsQuiescentInThreeSteps : Obligations.UnattendedBlockIsQuiescentInThreeSteps :=
  fun s ha => run_unattended_quiescent 3 ha s.pendingSources_length_le_three

/-- Settles O42: no other operation clears the flag, so the run keeps it, and it enables the service step. -/
theorem pendingEventIsNeverLost : Obligations.PendingEventIsNeverLost := by
  intro src ops s t hs hops hrun
  have hflag : t.flag src = 1 :=
    execAll_invariant (P := fun s => s.flag src = 1)
      (fun _ hi _ _ => exec_keeps_flag_one (ne_of_mem_of_not_mem hi hops)) hs hrun
  obtain ⟨u, hu⟩ := (exec_serviceInstr_next_iff src t).2 hflag
  exact ⟨hflag, u, hu, exec_serviceInstr_flag_self hu⟩

/-- Settles O7: a quiescent block has no source to serve. -/
theorem idleStepKeepsAllState : Obligations.IdleStepKeepsAllState := by
  intro s ha hq
  obtain ⟨-, hidle⟩ | ⟨src, -, hf, -⟩ := step_unattended ha
  · exact hidle
  · exact absurd hf (s.quiescent_iff_flag.1 hq src)

end Sys2Proof.Machine

/-! Reset and hazards (70_reset_and_hazards.md): the flag clear stands exactly once on the trace of a service step, at its
end (rule R277). -/

namespace Sys2Proof.Machine

/-! ## The records of a flag clear -/

/-- The records of the flag clear of an operation (rules R155, R177): a service step's read and write of its source's
flag, and nothing for any other operation. -/
def flagClearRecords : Instr → List OutRecord
  | .capsvcL => [.flagRead .capL, .flagWrite0 .capL]
  | .capsvcR => [.flagRead .capR, .flagWrite0 .capR]
  | .ctlsvc => [.flagRead .tof, .flagWrite0 .tof]
  | _ => []

theorem flagClearRecords_serviceInstr (src : Source) :
    flagClearRecords (serviceInstr src) = [.flagRead src, .flagWrite0 src] := by
  cases src <;> rfl

theorem flagClearRecords_of_not_service {i : Instr} (hi : ∀ src, i ≠ serviceInstr src) : flagClearRecords i = [] := by
  cases i with
  | capsvcL => exact absurd rfl (hi .capL)
  | capsvcR => exact absurd rfl (hi .capR)
  | ctlsvc => exact absurd rfl (hi .tof)
  | _ => rfl

theorem flagClearRecords_driveInstr (w : Wheel) (a : MotorStatus) : flagClearRecords (driveInstr w a) = [] := by
  cases w <;> cases a <;> rfl

theorem flagClearRecords_mouseInstr (m : MouseStatus) : flagClearRecords (mouseInstr m) = [] := by
  cases m <;> rfl

theorem count_flagClearRecords (i : Instr) (src : Source) :
    (flagClearRecords i).count (.flagRead src) = (if i = serviceInstr src then 1 else 0) ∧
      (flagClearRecords i).count (.flagWrite0 src) = (if i = serviceInstr src then 1 else 0) := by
  by_cases hservice : ∃ src', i = serviceInstr src'
  · obtain ⟨src', rfl⟩ := hservice
    simp [flagClearRecords_serviceInstr, serviceInstr_injective.eq_iff, List.count_cons]
  · rw [not_exists] at hservice
    rw [flagClearRecords_of_not_service hservice, if_neg (hservice src)]
    exact ⟨rfl, rfl⟩

/-! ## Records that are about no flag -/

/-- No record of the list reads or clears a flag. -/
def FlagFree (records : List OutRecord) : Prop :=
  ∀ src, .flagRead src ∉ records ∧ .flagWrite0 src ∉ records

theorem flagFree_nil : FlagFree [] := by simp [FlagFree]

theorem flagFree_capRead {w : Wheel} : FlagFree [.capRead w] := by simp [FlagFree]

theorem flagFree_driveRecords {w : Wheel} {a : MotorStatus} {on off : Word} : FlagFree (driveRecords w a on off) := by
  simp [FlagFree, driveRecords]

theorem FlagFree.append {l₁ l₂ : List OutRecord} (h₁ : FlagFree l₁) (h₂ : FlagFree l₂) : FlagFree (l₁ ++ l₂) := by
  intro src
  simp [h₁ src, h₂ src]

/-- The driver's records where the driver is called only if the status changes (rule R191). -/
theorem flagFree_driveRecords_unless {p : Prop} [Decidable p] {w : Wheel} {a : MotorStatus} {on off : Word} :
    FlagFree (if p then [] else driveRecords w a on off) := by
  split
  · exact flagFree_nil
  · exact flagFree_driveRecords

/-! ## What an operation appends -/

/-- An operation appends records about no flag, and after them its flag clear. -/
theorem Effect.out_eq_append_flagClearRecords {i : Instr} {s t : State} (h : Effect i s t) :
    ∃ body, FlagFree body ∧ t.out = s.out ++ (body ++ flagClearRecords i) := by
  cases h with
  | driveL a hi ht =>
    simp only [ht, hi, flagClearRecords_driveInstr, List.append_nil]
    exact ⟨_, flagFree_driveRecords, rfl⟩
  | driveR a hi ht =>
    simp only [ht, hi, flagClearRecords_driveInstr, List.append_nil]
    exact ⟨_, flagFree_driveRecords, rfl⟩
  | mouse m hi ht =>
    simp only [ht, hi, dispatch_eq, flagClearRecords_mouseInstr, List.append_nil, List.append_assoc]
    exact ⟨_, flagFree_driveRecords_unless.append flagFree_driveRecords_unless, rfl⟩
  | captureL hi _ ht => rw [ht, hi]; exact ⟨_, flagFree_capRead, rfl⟩
  | captureR hi _ ht => rw [ht, hi]; exact ⟨_, flagFree_capRead, rfl⟩
  | balanceClosed hi _ _ ht => rw [ht, hi]; exact ⟨_, flagFree_nil, rfl⟩
  | balanceOpen hi _ _ ht =>
    simp only [ht, hi, List.append_assoc]
    exact ⟨_, flagFree_driveRecords.append flagFree_driveRecords, by rw [List.append_assoc]; rfl⟩
  | _ => subst_vars; exact ⟨_, flagFree_nil, (List.append_nil _).symm⟩

/-! ## The statement -/

/-- Settles O43: only the flag clear at the end of an operation's records is about a flag, and a service step alone has
one, of its own source. -/
theorem flagIsClearedExactlyOnce : Obligations.FlagIsClearedExactlyOnce := by
  intro i s t h
  obtain ⟨body, hfree, hout⟩ := (effect_of_exec h).out_eq_append_flagClearRecords
  refine ⟨body ++ flagClearRecords i, hout, fun src => ?_⟩
  obtain ⟨hread, hwrite⟩ := hfree src
  obtain ⟨hreads, hwrites⟩ := count_flagClearRecords i src
  refine ⟨?_, ?_, ?_⟩
  · rintro rfl
    rw [flagClearRecords_serviceInstr]
    exact List.suffix_append ..
  · rw [List.count_append, List.count_eq_zero.2 hread, hreads, Nat.zero_add]
  · rw [List.count_append, List.count_eq_zero.2 hwrite, hwrites, Nat.zero_add]

end Sys2Proof.Machine
